-- ==== Sys2Proof/Word.lean ====
section
/-! DEFINITION. The bit-vector widths of the block: bytes of LMEM, 16-bit samples and
table entries, 32-bit registers and command words. -/

namespace Sys2Proof

/-- One byte of LMEM. -/
abbrev Byte := BitVec 8

/-- One LUT RAM entry, one 16-bit register field. -/
abbrev Half := BitVec 16

/-- One register, one command word. -/
abbrev Word := BitVec 32

end Sys2Proof
end

