-- ==== Sys2Proof/Syntax.lean ====
section
/-! DEFINITION. The commands: one constructor per row of spec/opcode_table.json. -/

namespace Sys2Proof

/-- The element formats (00_scope.md R14), selected by the bit SF (30_encoding.md R68). -/
inductive Fmt where
  | u8
  | u16
deriving DecidableEq, Repr

/-- The nine commands (30_encoding.md R70). The operands are unbounded naturals, as 00_scope.md R9
reads every quantity of a rule; `WellFormed` holds them to the widths of their fields.
`t` is the source format, `src` the source base address, `w` and `h` its width and height in samples,
`dst` a destination base address. -/
inductive Instr where
  /-- Ends the run (40_control.md R86). -/
  | halt
  /-- Does nothing (40_control.md R87). -/
  | nop
  /-- Loads LUT RAM from a grid (41_tone.md R88). -/
  | lutld (t : Fmt) (src w h : Nat)
  /-- Tone lookup (41_tone.md R89). -/
  | lut (t : Fmt) (src w h dst : Nat)
  /-- Photographic inversion (41_tone.md R90). -/
  | inv (t : Fmt) (src w h dst : Nat)
  /-- Composes the source onto the canvas (42_compositor.md R95). -/
  | compose (t : Fmt) (src w h dst : Nat)
  /-- Splits into a base plane at `dstb` and a remainder plane at `dstr` (43_bitplane_dither.md R99). -/
  | decomp (t : Fmt) (src w h dstb dstr : Nat)
  /-- One dither frame, number `f` (43_bitplane_dither.md R100). -/
  | dith1 (t : Fmt) (src w h dst f : Nat)
  /-- The whole frame set (43_bitplane_dither.md R101). -/
  | dithn (t : Fmt) (src w h dst : Nat)
deriving DecidableEq, Repr

end Sys2Proof
end

