-- ==== Sys2Proof/WellFormed.lean ====
section
/-! DEFINITION. When a command fits the fields of its encoding: the refusals of the assembler
(30_encoding.md R74), "w or h outside 0-65535, f outside 0-255, and an address outside 0 to 2^32-1".
A wrong format is no ill-formed command: it is a run-time ValidationError. -/

namespace Sys2Proof

/-- An address fits 32 bits. -/
abbrev addrFits (a : Nat) : Prop := a < 4294967296

/-- A width or a height fits 16 bits. -/
abbrev dimFits (n : Nat) : Prop := n < 65536

/-- A frame index fits the field FIDX. -/
abbrev fidxFits (f : Nat) : Prop := f < 256

/-- The source operands of a command fit W[1] and W[2]. -/
abbrev srcFits (src w h : Nat) : Prop := addrFits src ∧ dimFits w ∧ dimFits h

/-- Every operand fits its field. -/
def Instr.wellFormed (i : Instr) : Bool :=
  match i with
  | .halt => true
  | .nop => true
  | .lutld _ src w h => decide (srcFits src w h)
  | .lut _ src w h dst => decide (srcFits src w h ∧ addrFits dst)
  | .inv _ src w h dst => decide (srcFits src w h ∧ addrFits dst)
  | .compose _ src w h dst => decide (srcFits src w h ∧ addrFits dst)
  | .decomp _ src w h dstb dstr => decide (srcFits src w h ∧ addrFits dstb ∧ addrFits dstr)
  | .dith1 _ src w h dst f => decide (srcFits src w h ∧ addrFits dst ∧ fidxFits f)
  | .dithn _ src w h dst => decide (srcFits src w h ∧ addrFits dst)

/-- A command the assembler accepts (30_encoding.md R74). -/
abbrev Instr.WellFormed (i : Instr) : Prop := i.wellFormed = true

end Sys2Proof
end

