-- ==== Sys2Proof/Decode.lean ====
section
/-! DEFINITION. Command words: byte order (20_memory.md R47), the decoder of 30_encoding.md R72, total
on any eight words and rejecting by name, and the encoder of R67, R71 and R74. -/

namespace Sys2Proof

/-! ## Byte order -/

/-- Byte k of the little-endian encoding of v (20_memory.md R47: `v[8k+7 : 8k]`). -/
def leByte (v k : Nat) : Byte := BitVec.ofNat 8 (v / 256 ^ k)

/-- The n-byte little-endian value of the bytes b at a, a+1, … (20_memory.md R47). -/
def leValue (b : Nat → Byte) (a : Nat) : Nat → Nat
  | 0 => 0
  | n + 1 => (b a).toNat + 256 * leValue b (a + 1) n

/-! ## The eight words -/

/-- The eight 32-bit words of a command (30_encoding.md R66). -/
structure CmdWords where
  w0 : Word
  w1 : Word
  w2 : Word
  w3 : Word
  w4 : Word
  w5 : Word
  w6 : Word
  w7 : Word
deriving DecidableEq, Repr

/-- `Cmd.W[k]` (00_scope.md R16); there is no word past 7. -/
def CmdWords.word (W : CmdWords) (k : Nat) : Word :=
  match k with
  | 0 => W.w0
  | 1 => W.w1
  | 2 => W.w2
  | 3 => W.w3
  | 4 => W.w4
  | 5 => W.w5
  | 6 => W.w6
  | 7 => W.w7
  | _ => 0

/-- The word whose four bytes are b at 4k to 4k+3. -/
def wordAt (b : Nat → Byte) (k : Nat) : Word := BitVec.ofNat 32 (leValue b (4 * k) 4)

/-- The words of a command whose byte number j is b j (30_encoding.md R66). -/
def CmdWords.ofBytes (b : Nat → Byte) : CmdWords :=
  { w0 := wordAt b 0, w1 := wordAt b 1, w2 := wordAt b 2, w3 := wordAt b 3
    w4 := wordAt b 4, w5 := wordAt b 5, w6 := wordAt b 6, w7 := wordAt b 7 }

/-- Byte number j of a command, as it lies in LMEM. -/
def CmdWords.byte (W : CmdWords) (j : Nat) : Byte := leByte (W.word (j / 4)).toNat (j % 4)

/-! ## The opcode map -/

/-- The assigned opcodes (30_encoding.md R70). -/
inductive Opcode where
  | halt | nop | lutld | lut | inv | compose | decomp | dith1 | dithn
deriving DecidableEq, Repr

/-- The assigned opcodes, in the order of the table. -/
def Opcode.all : List Opcode := [.halt, .nop, .lutld, .lut, .inv, .compose, .decomp, .dith1, .dithn]

/-- The opcode byte OPC (30_encoding.md R70). -/
def Opcode.byte (o : Opcode) : Byte :=
  match o with
  | .halt => 0x01
  | .nop => 0x02
  | .lutld => 0x10
  | .lut => 0x11
  | .inv => 0x12
  | .compose => 0x20
  | .decomp => 0x30
  | .dith1 => 0x31
  | .dithn => 0x32

/-- The mask of W[0] (30_encoding.md R71). -/
def Opcode.mask (o : Opcode) : Word :=
  match o with
  | .halt | .nop => 0xFFFFFFFF
  | .dith1 => 0xFF00FEFF
  | .lutld | .lut | .inv | .compose | .decomp | .dithn => 0xFFFFFEFF

/-- The match value of W[0] (30_encoding.md R71). -/
def Opcode.pattern (o : Opcode) : Word := o.byte.setWidth 32

/-- The words 1 to 7 that are reserved for the command, ascending (30_encoding.md R71). -/
def Opcode.reservedWords (o : Opcode) : List Nat :=
  match o with
  | .halt | .nop => [1, 2, 3, 4, 5, 6, 7]
  | .lutld => [3, 4, 5, 6, 7]
  | .decomp => [5, 6, 7]
  | .lut | .inv | .compose | .dith1 | .dithn => [4, 5, 6, 7]

/-- The opcode a byte selects, if it is assigned. Decoding is by the whole byte (30_encoding.md R70). -/
def Opcode.ofByte (b : Byte) : Option Opcode := Opcode.all.find? fun o => o.byte = b

/-! ## The decoder -/

/-- Why a command is illegal (30_encoding.md R72): the sub-codes I1, I2, I3. -/
inductive Illegal where
  /-- I1: OPC is not assigned. -/
  | opcode
  /-- I2: a reserved bit of W[0] is set. -/
  | reservedBits
  /-- I3: word k is reserved and not 0; k is the first such word. -/
  | reservedWord (k : Nat)
deriving DecidableEq, Repr

/-- The source format SF (30_encoding.md R68). -/
def CmdWords.sf (W : CmdWords) : Fmt := if W.w0.getLsbD 8 then .u16 else .u8

/-- FIDX, an unsigned 8-bit number (30_encoding.md R67, R69). -/
def CmdWords.fidx (W : CmdWords) : Nat := (W.w0.extractLsb' 16 8).toNat

/-- SRC_W (30_encoding.md R67). -/
def CmdWords.srcW (W : CmdWords) : Nat := (W.w2.extractLsb' 0 16).toNat

/-- SRC_H (30_encoding.md R67). -/
def CmdWords.srcH (W : CmdWords) : Nat := (W.w2.extractLsb' 16 16).toNat

/-- The command of an opcode with the operands of the words: no sign extension, scaling or shift of
any field (30_encoding.md R69). -/
def Opcode.instr (o : Opcode) (W : CmdWords) : Instr :=
  match o with
  | .halt => .halt
  | .nop => .nop
  | .lutld => .lutld W.sf W.w1.toNat W.srcW W.srcH
  | .lut => .lut W.sf W.w1.toNat W.srcW W.srcH W.w3.toNat
  | .inv => .inv W.sf W.w1.toNat W.srcW W.srcH W.w3.toNat
  | .compose => .compose W.sf W.w1.toNat W.srcW W.srcH W.w3.toNat
  | .decomp => .decomp W.sf W.w1.toNat W.srcW W.srcH W.w3.toNat W.w4.toNat
  | .dith1 => .dith1 W.sf W.w1.toNat W.srcW W.srcH W.w3.toNat W.fidx
  | .dithn => .dithn W.sf W.w1.toNat W.srcW W.srcH W.w3.toNat

/-- The checks of 30_encoding.md R72 on the words of an assigned opcode, then its command. -/
def Opcode.decode (o : Opcode) (W : CmdWords) : Except Illegal Instr :=
  if W.w0 &&& o.mask = o.pattern then
    match o.reservedWords.find? fun k => W.word k ≠ 0 with
    | some k => .error (.reservedWord k)
    | none => .ok (o.instr W)
  else .error .reservedBits

/-- `decode(W)` (30_encoding.md R72): I1, then I2, then I3 by ascending word. -/
def decode (W : CmdWords) : Except Illegal Instr :=
  match Opcode.ofByte (W.w0.extractLsb' 0 8) with
  | none => .error .opcode
  | some o => o.decode W

/-- The instruction the decoder reads from an instruction whose bits are w: byte j is bits 8j+7..8j,
and every bit above nbits is 0. -/
def decodeTableWord (nbits w : Nat) : Option Instr :=
  match decode (CmdWords.ofBytes fun j => leByte (w % 2 ^ nbits) j) with
  | .ok i => some i
  | .error _ => none

/-! ## The encoder -/

/-- The row of the opcode table a command belongs to (30_encoding.md R70). -/
def Instr.opcode (i : Instr) : Opcode :=
  match i with
  | .halt => .halt
  | .nop => .nop
  | .lutld _ _ _ _ => .lutld
  | .lut _ _ _ _ _ => .lut
  | .inv _ _ _ _ _ => .inv
  | .compose _ _ _ _ _ => .compose
  | .decomp _ _ _ _ _ _ => .decomp
  | .dith1 _ _ _ _ _ _ => .dith1
  | .dithn _ _ _ _ _ => .dithn

/-- The bit SF of a format (30_encoding.md R68). -/
def Fmt.sf (t : Fmt) : Nat :=
  match t with
  | .u8 => 0
  | .u16 => 1

/-- W[0] of the fields FIDX, SF and OPC (30_encoding.md R67). -/
def packW0 (o : Opcode) (t : Fmt) (f : Nat) : Word :=
  BitVec.ofNat 8 0 ++ BitVec.ofNat 8 f ++ BitVec.ofNat 8 t.sf ++ o.byte

/-- W[2] of the fields SRC_H and SRC_W (30_encoding.md R67). -/
def packDims (w h : Nat) : Word := BitVec.ofNat 16 h ++ BitVec.ofNat 16 w

/-- The words of a command with fields opcode, format, frame index, source, and destinations; words 5
to 7 are reserved in every command (30_encoding.md R71). -/
def packCmd (o : Opcode) (t : Fmt) (f src w h dst0 dst1 : Nat) : CmdWords :=
  { w0 := packW0 o t f, w1 := BitVec.ofNat 32 src, w2 := packDims w h
    w3 := BitVec.ofNat 32 dst0, w4 := BitVec.ofNat 32 dst1, w5 := 0, w6 := 0, w7 := 0 }

/-- The words of a well-formed command (30_encoding.md R71, R74). -/
def encode (i : Instr) : CmdWords :=
  match i with
  | .halt => packCmd .halt .u8 0 0 0 0 0 0
  | .nop => packCmd .nop .u8 0 0 0 0 0 0
  | .lutld t src w h => packCmd .lutld t 0 src w h 0 0
  | .lut t src w h dst => packCmd .lut t 0 src w h dst 0
  | .inv t src w h dst => packCmd .inv t 0 src w h dst 0
  | .compose t src w h dst => packCmd .compose t 0 src w h dst 0
  | .decomp t src w h dstb dstr => packCmd .decomp t 0 src w h dstb dstr
  | .dith1 t src w h dst f => packCmd .dith1 t f src w h dst 0
  | .dithn t src w h dst => packCmd .dithn t 0 src w h dst 0

end Sys2Proof
end

