-- ==== Sys2Proof/Config.lean ====
section
/-! DEFINITION. What a platform fixes (00_scope.md R7) and the free values of the model.

A free value has no body: nothing can evaluate it, so a claim holds whatever it is. -/

namespace Sys2Proof

/-- The OPEN implementation parameters of 00_scope.md R7. They stand in `State` as a field no step
writes, so that a statement about every state is a statement about every platform (log entry 1). -/
structure Params where
  /-- `LMEM_SIZE`: bytes of local memory. -/
  lmemSize : Nat
  /-- `REG_BASE`: the host address of the register block. -/
  regBase : Nat
deriving DecidableEq, Repr

/-- The bounds 00_scope.md R7 sets on the parameters: room for one command, at most 2^32 bytes. -/
abbrev Params.wf (p : Params) : Prop := 32 ≤ p.lmemSize ∧ p.lmemSize ≤ 4294967296

/-- The parameters of `State.reset`. DESIGN CHOICE (log entry 1): LMEM fills the 32-bit address space,
the register block stands at host address 0. -/
def Params.default : Params := { lmemSize := 4294967296, regBase := 0 }

/-- A free byte: the byte at a position of the numbered draw. It stands for an LMEM byte nobody has
written since reset (93_implementation_defined.md U1, U3), for what a racing host access reads (U4)
and for what a disturbed run writes (U5). Log entries 4, 7. -/
opaque Config.freeByte : Nat → Nat → Byte

/-- A free LUT RAM: its contents after a reset (93_implementation_defined.md U2), and what a LUTLD of
a disturbed run loads (log entries 5, 8). -/
opaque Config.freeTable : Nat → Vector Half 65536

/-- A free choice: which of the old and new values the display reads of a byte the host overwrote
while it was presented (93_implementation_defined.md U6). Log entry 9. -/
opaque Config.freeChoice : Nat → Nat

/-- `DISPLAY_IDLE`: what the display shows at row y and column x while no frame is presented
(93_implementation_defined.md U7). No rule of the block depends on it. Log entry 10. -/
opaque Config.displayIdle : Nat → Nat → Byte

end Sys2Proof
end

