-- ==== Sys2Proof/Machine/State.lean ====
section
/-! DEFINITION. The state of the block (10_state.md R17), the pending steps of its agents
(60_exceptions.md R124), and why the model stops. -/

namespace Sys2Proof.Machine

/-! ## Names -/

/-- The registers (10_state.md R21), in the order of their offsets 0x00 to 0x70. -/
inductive Reg where
  | id | ctrl | status | clBase | cp | errCode | errInfo | errAddr | errCp
  | config | fill | canvasW | canvasH | frames | irqStatus | irqEnable | seqCtrl
  | seqBase | seqDuration | seqMinInterval | seqPasses | seqInterval | seqIndex
  | seqElapsed | seqShown | seqN | seqGeom | seqErr | seqPresAddr
deriving DecidableEq, Repr

/-- The interrupt sources (10_state.md R36, 60_exceptions.md R122), in the order of their bits 0 to 7. -/
inductive Irq where
  | ceDone | ceErr | ceAbort | startIgn | seqFrame | seqDone | seqErr | lockViol
deriving DecidableEq, Repr

/-- The invariants a command can violate (60_exceptions.md R113), by their identifiers. -/
inductive Violation where
  /-- LUT grid width is 256. -/
  | v1
  /-- LUT grid height is 256. -/
  | v2
  /-- LUT grid is 16-bit unsigned. -/
  | v3
  /-- Source is 16-bit. -/
  | v4
  /-- Frame count is at least 1. -/
  | v5
  /-- Frame index is below the frame count. -/
  | v6
  /-- Fill value fits an 8-bit canvas. -/
  | v7
  /-- Scaled width is at most the canvas width. -/
  | g1
  /-- Scaled height is at most the canvas height. -/
  | g2
  /-- Source is not null. -/
  | p1
  /-- A LUT has been loaded. -/
  | p2
  /-- OPC is assigned. -/
  | i1
  /-- Reserved bits of W[0] are 0. -/
  | i2
  /-- Reserved words are 0. -/
  | i3
  /-- CP is a multiple of 4. -/
  | a1
  /-- The command lies in LMEM. -/
  | a2
  /-- A U16 operand's base is even. -/
  | a3
  /-- An operand lies in LMEM. -/
  | a4
  /-- Two operands share no byte. -/
  | o1
  /-- A destination does not overlap the active frame set. -/
  | f1
deriving DecidableEq, Repr

/-- `raise E(sub, opa, opb, addr)` (00_scope.md R16, 60_exceptions.md R119): the violated invariant
fixes the error code and the sub-code. -/
structure Raise where
  why : Violation
  opa : Byte
  opb : Byte
  addr : Word
deriving DecidableEq, Repr

/-- A half-open interval of LMEM bytes, `[lo, lo + len)` (00_scope.md R16). -/
structure Span where
  lo : Nat
  len : Nat
deriving DecidableEq, Repr

/-- The widths of a host access (10_state.md R22, 20_memory.md R55): 1, 2 or 4 bytes. -/
inductive Width where
  | b1 | b2 | b4
deriving DecidableEq, Repr

/-! ## The steps of the agents -/

/-- One step of one agent (60_exceptions.md R124), or the reset input (70_reset_and_hazards.md R131).

`races` resolves, for a host access while a run is busy, what the step cannot know: the addresses of
the access's bytes that the run goes on to read or write (20_memory.md R60). What the run has already
touched the model knows itself, and the end of the run checks what it was told. Log entries 2, 7. -/
inductive Event where
  /-- The host reads a register at a host address. -/
  | regRead (width : Width) (addr : Nat)
  /-- The host writes a register at a host address. -/
  | regWrite (width : Width) (addr : Nat) (value : Word)
  /-- The host reads LMEM through the host memory port. -/
  | memRead (width : Width) (addr : Nat) (races : List Nat)
  /-- The host writes the low bytes of value to LMEM through the host memory port. -/
  | memWrite (width : Width) (addr : Nat) (value : Word) (races : List Nat)
  /-- The command engine takes a step. -/
  | ceStep
  /-- The time base delivers a tick. -/
  | tick
  /-- The display reads the sample at row y and column x of the presented frame. -/
  | displayRead (y x : Nat)
  /-- The platform applies the reset input. -/
  | resetInput
deriving DecidableEq, Repr

/-- What a read has answered, as the model records it (44_sequencer.md R110). -/
inductive Observation where
  | register (offset : Nat) (value : Word)
  | memory (width : Width) (addr : Nat) (value : Word)
  | display (y x : Nat) (value : Byte)
deriving DecidableEq, Repr

/-! ## The parts of the state -/

/-- The registers the lock of 10_state.md R23 protects while `ce_busy` (R27, R32-R35). Reserved bits
are not stored: they read 0 and ignore writes (R22). -/
structure CeConfig where
  clBase : Word
  /-- CONFIG: bit 0 CENTER, bit 1 FILL_MAX, bit 2 CMP_GE. -/
  config : BitVec 3
  fill : Half
  canvasW : Half
  canvasH : Half
  frames : Byte
deriving DecidableEq, Repr

/-- The fault record: ERR_CODE, the fields of ERR_INFO, ERR_ADDR and ERR_CP (10_state.md R28-R31). -/
structure ErrRecord where
  code : Byte
  sub : Byte
  opa : Byte
  opb : Byte
  addr : Word
  cp : Word
deriving DecidableEq, Repr

/-- The registers the lock of 10_state.md R23 protects while `seq_run` (R39). -/
structure SeqConfig where
  base : Word
  duration : Word
  minInterval : Word
  passes : Half
deriving DecidableEq, Repr

/-- The sequencer's state (10_state.md R43). -/
structure Seq where
  run : Bool
  index : Byte
  elapsed : Word
  shown : Word
  interval : Word
  n : Byte
  w : Half
  h : Half
  err : Byte
  presAddr : Word
deriving DecidableEq, Repr

/-- The MODEL's record of 20_memory.md R60 for the present run (log entry 7): the bytes its commands
have read or written, the bytes the host wrote while none of them had been touched, the bytes a host
access raced for that no command has touched yet, and whether every byte the run writes from now on is
unspecified. -/
structure Race where
  touched : List Span
  hostWrites : List Span
  awaited : List Nat
  tainted : Bool
deriving DecidableEq, Repr

/-- The state of the block: plain data. -/
structure State where
  /-- LMEM_SIZE and REG_BASE (00_scope.md R7); no step writes them. -/
  params : Params
  /-- A run is in progress (10_state.md R20). -/
  ceBusy : Bool
  /-- The run is asked to stop at the next command boundary (10_state.md R20). -/
  abortPend : Bool
  /-- LUT RAM holds a loaded table (10_state.md R20). -/
  lutValid : Bool
  /-- The command pointer (10_state.md R19). -/
  cp : Word
  /-- The registers locked while `ce_busy`. -/
  cfg : CeConfig
  /-- The fault record. -/
  err : ErrRecord
  /-- Sticky event flags, bits 7:0 (10_state.md R36). -/
  irqStatus : Byte
  /-- Interrupt enables, bits 7:0 (10_state.md R37). -/
  irqEnable : Byte
  /-- The registers locked while `seq_run`. -/
  seqCfg : SeqConfig
  /-- The sequencer. -/
  seq : Seq
  /-- LUT RAM: 65536 entries of 16 bits (10_state.md R41). -/
  lutRam : Vector Half 65536
  /-- LMEM (10_state.md R42): the bytes written since reset, addresses strictly rising. -/
  lmem : List Host.Cell
  /-- MODEL's own: the draw that the bytes nobody has written come from (log entry 6). -/
  lmemEpoch : Nat
  /-- MODEL's own: the number of draws of free values so far (log entry 6). -/
  freeCount : Nat
  /-- MODEL's own: the host accesses of the present run (log entry 7). -/
  race : Race
  /-- MODEL's own: the values the host overwrote in the presented frame set (log entry 9). -/
  stale : List Host.Cell
  /-- MODEL's own: the pending steps of the agents, next first (log entry 2). -/
  schedule : List Event
  /-- MODEL's own: what reads have answered, newest first (log entry 2). -/
  record : List Observation
deriving DecidableEq, Repr

/-! ## Stops -/

/-- The faults of the MODEL. The block's own faults (60_exceptions.md R119) are taken: they end in a
next state. -/
inductive Fault where
  /-- Raised by a display read of a presented byte at or above LMEM_SIZE, an address that does not exist
  (20_memory.md R46). No reachable state raises it: a sequencer START is refused unless its frame set
  lies in LMEM (44_sequencer.md R105). Safe: the model stops where the spec gives no byte. -/
  | noSuchAddress
deriving DecidableEq, Repr

/-- What the model refuses, as 93_implementation_defined.md asks for accesses outside its domain. -/
inductive Refusal where
  /-- An instruction without a meaning yet, by its mnemonic. Raised by no instruction of this model.
  Safe. -/
  | notModelled (mnemonic : String)
  /-- Raised by a register-port access outside the block's 256 bytes (10_state.md R21): another device
  answers it. Safe. -/
  | outsideRegisterBlock
  /-- Raised by a register access of 1 or 2 bytes, or at an offset not a multiple of 4 (10_state.md R22,
  93 PL1): platform-defined. Safe. -/
  | narrowRegisterAccess
  /-- Raised by a host memory-port access not naturally aligned (20_memory.md R49, 93 PL2):
  platform-defined. Safe. -/
  | misalignedHostAccess
  /-- Raised by a host memory-port access that reaches LMEM_SIZE or beyond (20_memory.md R55, 93 PL3):
  platform-defined. Safe. -/
  | hostAccessOutsideLmem
  /-- Raised by a display read outside the presented frame (44_sequencer.md R110 lets the display read
  the frame's bytes only). Safe. -/
  | displayOutsideFrame
  /-- Raised by the step that would end a run in which a host access raced for a byte that no command of
  the run read or wrote: such an access behaves as when the engine is idle (20_memory.md R60), so the
  `races` of that access named no behaviour of the block. No instruction raises it. Safe: the same steps
  with that address left out of `races` go on (log entry 7). -/
  | raceNeverHappened
deriving DecidableEq, Repr

/-! ## Reset -/

/-- The CE's configuration after reset (70_reset_and_hazards.md R131). -/
def CeConfig.reset : CeConfig :=
  { clBase := 0, config := 3, fill := 0xFFFF, canvasW := 7680, canvasH := 4320, frames := 16 }

/-- The fault record after reset and after an accepted START (70 R131, 40_control.md R77). -/
def ErrRecord.clear : ErrRecord := { code := 0, sub := 0, opa := 0, opb := 0, addr := 0, cp := 0 }

/-- The sequencer's configuration after reset (70_reset_and_hazards.md R131). -/
def SeqConfig.reset : SeqConfig := { base := 0, duration := 0, minInterval := 500000, passes := 1 }

/-- The sequencer after reset (70_reset_and_hazards.md R131). -/
def Seq.reset : Seq :=
  { run := false, index := 0, elapsed := 0, shown := 0, interval := 0, n := 0, w := 0, h := 0
    err := 0, presAddr := 0 }

/-- No host access of the present run. -/
def Race.clear : Race := { touched := [], hostWrites := [], awaited := [], tainted := false }

/-- The block after the reset input (70_reset_and_hazards.md R131) on a platform with parameters p:
the registers at their reset values, LUT RAM and LMEM unspecified, drawn as draw number d of the free
values; the pending steps and the record are not the block's and stay. -/
def State.afterReset (p : Params) (d : Nat) (pending : List Event) (seen : List Observation) : State :=
  { params := p
    ceBusy := false, abortPend := false, lutValid := false, cp := 0
    cfg := CeConfig.reset, err := ErrRecord.clear, irqStatus := 0, irqEnable := 0
    seqCfg := SeqConfig.reset, seq := Seq.reset
    lutRam := Config.freeTable d, lmem := [], lmemEpoch := d, freeCount := d + 1
    race := Race.clear, stale := [], schedule := pending, record := seen }

/-- The machine right after reset: nothing pending, nothing recorded (70_reset_and_hazards.md R131,
R132). DESIGN CHOICE (log entry 1): the parameters. -/
def State.reset : State := State.afterReset Params.default 0 [] []

end Sys2Proof.Machine
end

