-- ==== Sys2Proof/Machine/Flags.lean ====
section
/-! DEFINITION. Flags: the interrupt bits and the interrupt line (10_state.md R36, R37,
60_exceptions.md R122, R123), STATUS (10_state.md R26) and the fields of CONFIG (R32). The block has no
condition codes (R20). -/

namespace Sys2Proof.Machine

/-- The bit of an interrupt source in IRQ_STATUS and IRQ_ENABLE (10_state.md R36). -/
def Irq.bit (q : Irq) : Nat :=
  match q with
  | .ceDone => 0
  | .ceErr => 1
  | .ceAbort => 2
  | .startIgn => 3
  | .seqFrame => 4
  | .seqDone => 5
  | .seqErr => 6
  | .lockViol => 7

/-- The byte with only the source's bit set. -/
def Irq.mask (q : Irq) : Byte := 1#8 <<< q.bit

/-- `R[IRQ_STATUS].q <- 1`: sets the sticky bit, whether or not it is enabled (60_exceptions.md R122). -/
def State.setIrq (s : State) (q : Irq) : State := { s with irqStatus := s.irqStatus ||| q.mask }

/-- The source's pending bit. -/
def State.irqPending (s : State) (q : Irq) : Bool := s.irqStatus.getLsbD q.bit

/-- A host write of v to IRQ_STATUS: each 1 clears its bit, each 0 leaves it (10_state.md R36). -/
def State.clearIrq (s : State) (v : Byte) : State := { s with irqStatus := s.irqStatus &&& ~~~v }

/-- The interrupt line (60_exceptions.md R123): OR over the eight sources of pending AND enabled. -/
def State.irqLine (s : State) : Bool :=
  (List.range 8).any fun i => s.irqStatus.getLsbD i && s.irqEnable.getLsbD i

/-- The bits of STATUS (10_state.md R26): CE_BUSY, LUT_VALID, SEQ_RUN, ABORT_PEND. -/
def State.status (s : State) : Word :=
  BitVec.ofNat 32 (s.ceBusy.toNat + 2 * s.lutValid.toNat + 4 * s.seq.run.toNat + 8 * s.abortPend.toNat)

/-- `CONFIG.CENTER` (10_state.md R32). -/
def CeConfig.center (c : CeConfig) : Bool := c.config.getLsbD 0

/-- `CONFIG.FILL_MAX` (10_state.md R32). -/
def CeConfig.fillMax (c : CeConfig) : Bool := c.config.getLsbD 1

/-- `CONFIG.CMP_GE` (10_state.md R32). -/
def CeConfig.cmpGe (c : CeConfig) : Bool := c.config.getLsbD 2

end Sys2Proof.Machine
end

