-- ==== Sys2Proof/Machine/Ops.lean ====
section
/-! DEFINITION. The named operations over LMEM, LUT RAM and the engine's registers: every access goes
through them. Taking a fault (60_exceptions.md R119) stands here once, the restart beside it. -/

namespace Sys2Proof.Machine

/-! ## Byte intervals -/

/-- `overlap(I, J)`: the half-open intervals have a byte in common (00_scope.md R16). -/
def Span.overlaps (I J : Span) : Bool := max I.lo J.lo < min (I.lo + I.len) (J.lo + J.len)

/-- The interval holds the address. -/
def Span.holds (I : Span) (a : Nat) : Bool := I.lo ≤ a && a < I.lo + I.len

/-- The addresses of an interval, ascending. -/
def Span.addresses (I : Span) : List Nat := (List.range I.len).map fun k => I.lo + k

/-- Some interval of the list holds the address. -/
def heldBy (spans : List Span) (a : Nat) : Bool := spans.any fun I => I.holds a

/-! ## LMEM as data -/

/-- The canonical form of memory: addresses strictly rising. An unlisted address holds no stored value
at all, so no entry can equal what an unlisted address reads as (log entry 4). -/
abbrev Memory.wf (m : List Host.Cell) : Prop := (m.map Prod.fst).Pairwise (· < ·)

/-- The stored byte at an address, if one was written since reset. -/
def lookup (m : List Host.Cell) (a : Nat) : Option Byte :=
  match m with
  | [] => none
  | (k, b) :: rest => if a = k then some b else lookup rest a

/-- Memory with the len bytes from lo on replaced: byte lo + k becomes g k. -/
def splice (m : List Host.Cell) (lo len : Nat) (g : Nat → Byte) : List Host.Cell :=
  (m.filter fun c => c.1 < lo) ++ (List.range len).map (fun k => (lo + k, g k)) ++
    m.filter fun c => lo + len ≤ c.1

/-- The byte of LMEM at an address: the stored one, or, where nobody has written since reset, a free
byte, the same on each read (93_implementation_defined.md U1, U3; log entry 4). -/
def State.readByte (s : State) (a : Nat) : Byte :=
  (lookup s.lmem a).getD (Config.freeByte s.lmemEpoch a)

/-- `MemRead(addr, n)` (00_scope.md R16, 20_memory.md R47). -/
def State.memRead (s : State) (a n : Nat) : Nat := leValue s.readByte a n

/-- The command engine or the host stores the bytes g 0, g 1, … at lo, lo+1, …. -/
def State.putBytes (s : State) (lo len : Nat) (g : Nat → Byte) : State :=
  { s with lmem := splice s.lmem lo len g }

/-- A command's store. When the host has disturbed the run (20_memory.md R60), every byte the run
writes is unspecified: a free byte (log entry 7). -/
def State.store (s : State) (lo len : Nat) (g : Nat → Byte) : State :=
  if s.race.tainted then
    { s.putBytes lo len (fun k => Config.freeByte s.freeCount (lo + k)) with freeCount := s.freeCount + 1 }
  else s.putBytes lo len g

/-! ## LUT RAM -/

/-- `LutRead(i)` (00_scope.md R16): every 16-bit index is in the table. -/
def State.lutRead (s : State) (i : Half) : Half := s.lutRam[i.toNat]'i.isLt

/-- A LUTLD's writes: all 65536 entries at once, and `lut_valid <- 1` (41_tone.md R88). In a disturbed
run the table is free (20_memory.md R60; log entry 8). -/
def State.loadLut (s : State) (f : Nat → Half) : State :=
  if s.race.tainted then
    { s with lutRam := Config.freeTable s.freeCount, lutValid := true, freeCount := s.freeCount + 1 }
  else { s with lutRam := Vector.ofFn fun i : Fin 65536 => f i.val, lutValid := true }

/-! ## What a run touches -/

/-- The running command reads or writes these bytes. If the host wrote one of them earlier in the run,
what the run writes is unspecified from here on, and a byte the host raced for is awaited no more
(20_memory.md R60; log entry 7). -/
def State.touch (s : State) (spans : List Span) : State :=
  { s with race :=
    { s.race with
      touched := spans ++ s.race.touched
      awaited := s.race.awaited.filter fun a => !heldBy spans a
      tainted := s.race.tainted || spans.any fun I => s.race.hostWrites.any I.overlaps } }

/-! ## The command pointer -/

/-- `CP <- (CP + 32) mod 2^32` (40_control.md R82). -/
def State.advance (s : State) : State := { s with cp := s.cp + 32#32 }

/-! ## Faults -/

/-- The error code of a violated invariant (60_exceptions.md R112, R113). -/
def Violation.code (v : Violation) : Byte :=
  match v with
  | .v1 | .v2 | .v3 | .v4 | .v5 | .v6 | .v7 => 3
  | .g1 | .g2 => 4
  | .p1 | .p2 => 5
  | .i1 | .i2 | .i3 => 6
  | .a1 | .a2 | .a3 | .a4 => 7
  | .o1 => 8
  | .f1 => 9

/-- The sub-code of a violated invariant (60_exceptions.md R113). -/
def Violation.sub (v : Violation) : Byte :=
  match v with
  | .v1 | .g1 | .p1 | .i1 | .a1 | .o1 | .f1 => 1
  | .v2 | .g2 | .p2 | .i2 | .a2 => 2
  | .v3 | .i3 | .a3 => 3
  | .v4 | .a4 => 4
  | .v5 => 5
  | .v6 => 6
  | .v7 => 7

/-- The fault record of a raise by the command at cp (60_exceptions.md R119). -/
def Raise.toRecord (r : Raise) (cp : Word) : ErrRecord :=
  { code := r.why.code, sub := r.why.sub, opa := r.opa, opb := r.opb, addr := r.addr, cp := cp }

/-- TAKING A FAULT (60_exceptions.md R119): the record is written, the run ends, CE_ERR is set. CP keeps
the faulting command's address, and the command has written nothing. -/
def State.takeFault (s : State) (r : Raise) : State :=
  { s.setIrq .ceErr with err := r.toRecord s.cp, ceBusy := false, abortPend := false }

/-- Return from a fault (60_exceptions.md R120): there is no return command; the host restarts the run.
This is the accepted START of 40_control.md R77: CP from CL_BASE, the fault record cleared. A new run
has touched nothing (20_memory.md R60). -/
def State.beginRun (s : State) : State :=
  { s with ceBusy := true, abortPend := false, cp := s.cfg.clBase, err := ErrRecord.clear
           race := Race.clear }

/-- A host write of 1 to `CTRL.START` (40_control.md R77): ignored, and reported, while busy. -/
def State.startRun (s : State) : State := if s.ceBusy then s.setIrq .startIgn else s.beginRun

/-- A host write of 1 to `CTRL.ABORT` (40_control.md R78). -/
def State.requestAbort (s : State) : State := if s.ceBusy then { s with abortPend := true } else s

/-! ## The ends of a run -/

/-- `halt_take()` (40_control.md R86): CP is left at the HALT's address. -/
def State.haltTake (s : State) : State :=
  { s.setIrq .ceDone with ceBusy := false, abortPend := false }

/-- `abort_take()` at a command boundary (40_control.md R83). -/
def State.abortTake (s : State) : State :=
  { s.setIrq .ceAbort with ceBusy := false, abortPend := false }

/-! ## Fetch -/

/-- `raise` with its operand identifiers and address. -/
def raised (v : Violation) (opa opb : Byte) (addr : Nat) : Raise :=
  { why := v, opa := opa, opb := opb, addr := BitVec.ofNat 32 addr }

/-- `none` when the invariant holds, the raise when it does not. -/
def require (ok : Prop) [Decidable ok] (r : Raise) : Option Raise := if ok then none else some r

/-- The first check that fails, in order (60_exceptions.md R118). -/
def firstRaise (checks : List (Option Raise)) : Option Raise := checks.findSome? id

/-- The fetch checks at CP: A1, then A2, the sum unbounded (40_control.md R80). -/
def State.fetchCheck (s : State) : Option Raise :=
  firstRaise
    [require (s.cp.toNat % 4 = 0) (raised .a1 0 0 s.cp.toNat),
     require (s.cp.toNat + 32 ≤ s.params.lmemSize) (raised .a2 0 0 s.cp.toNat)]

/-- The eight words at CP (40_control.md R80, 30_encoding.md R66). -/
def State.fetchWords (s : State) : CmdWords :=
  CmdWords.ofBytes fun j => s.readByte (s.cp.toNat + j)

/-- The bytes of the command at CP. -/
def State.cmdSpan (s : State) : Span := { lo := s.cp.toNat, len := 32 }

/-- IllegalCommand (30_encoding.md R72): I1, I2, or I3 with OPA the first offending word. -/
def illegalRaise (e : Illegal) : Raise :=
  match e with
  | .opcode => raised .i1 0 0 0
  | .reservedBits => raised .i2 0 0 0
  | .reservedWord k => raised .i3 (BitVec.ofNat 8 k) 0 0

end Sys2Proof.Machine
end

