-- ==== Sys2Proof/Machine/Operands.lean ====
section
/-! DEFINITION. Operands: surfaces (00_scope.md R14, R15, 20_memory.md R48), their samples, and the
checks the commands share (60_exceptions.md R114-R117). -/

namespace Sys2Proof.Machine

/-- Bytes per element (00_scope.md R14). -/
def bpe (t : Fmt) : Nat :=
  match t with
  | .u8 => 1
  | .u16 => 2

/-- The greatest sample of a format, `MAX(fmt)` (00_scope.md R14). -/
def maxOf (t : Fmt) : Nat :=
  match t with
  | .u8 => 255
  | .u16 => 65535

/-- A surface `(base, w, h, fmt)`, packed row-major (00_scope.md R15). -/
structure Surface where
  base : Nat
  w : Nat
  h : Nat
  fmt : Fmt
deriving DecidableEq, Repr

/-- `len(S) = w * h * bpe(fmt)` (00_scope.md R15). -/
def Surface.len (S : Surface) : Nat := S.w * S.h * bpe S.fmt

/-- `region(S)` (00_scope.md R16). -/
def Surface.span (S : Surface) : Span := { lo := S.base, len := S.len }

/-- The address of sample (y, x), the only addressing mode (20_memory.md R48). -/
def Surface.addr (S : Surface) (y x : Nat) : Nat := S.base + (y * S.w + x) * bpe S.fmt

/-- `Pix(S, y, x)` in a state (00_scope.md R16). -/
def Surface.pix (S : Surface) (s : State) (y x : Nat) : Nat := s.memRead (S.addr y x) (bpe S.fmt)

/-- Byte k of the surface whose sample (y, x) is p y x: the bytes that `SetPix` at every (y, x) leaves
(00_scope.md R16, 20_memory.md R48). -/
def Surface.byteOf (S : Surface) (p : Nat → Nat → Nat) (k : Nat) : Byte :=
  leByte (p (k / bpe S.fmt / S.w) (k / bpe S.fmt % S.w)) (k % bpe S.fmt)

/-- `SetPix(S, y, x, p y x)` for every sample of S, in one store (40_control.md R81). -/
def State.storeSurface (s : State) (S : Surface) (p : Nat → Nat → Nat) : State :=
  s.store S.base S.len (S.byteOf p)

/-! ## Operand identifiers (10_state.md R29) -/

/-- The command itself. -/
def opCmd : Byte := 0
/-- SRC. -/
def opSrc : Byte := 1
/-- DST0. -/
def opDst0 : Byte := 2
/-- DST1. -/
def opDst1 : Byte := 3
/-- The sequencer's active frame set. -/
def opFrames : Byte := 4

/-! ## The checks -/

/-- The null-source check P1 (60_exceptions.md R114). -/
def chkNotNull (S : Surface) : Option Raise :=
  require (S.w ≠ 0 ∧ S.h ≠ 0) (raised .p1 opSrc 0 0)

/-- `chk_surface(S, id)` (60_exceptions.md R115): A3, then A4, the sum unbounded. -/
def chkSurface (S : Surface) (id : Byte) (s : State) : Option Raise :=
  firstRaise
    [require (S.fmt = .u16 → S.base % 2 = 0) (raised .a3 id 0 S.base),
     require (S.base + S.len ≤ s.params.lmemSize) (raised .a4 id 0 S.base)]

/-- `chk_overlap(A, a, B, b)` (60_exceptions.md R116): OPA is a, OPB is b, the address is A's base. -/
def chkOverlap (A : Surface) (a : Byte) (B : Surface) (b : Byte) : Option Raise :=
  require (A.span.overlaps B.span = false) (raised .o1 a b A.base)

/-- The bytes of the active frame set (60_exceptions.md R117). -/
def State.activeSet (s : State) : Span :=
  { lo := s.seqCfg.base.toNat, len := s.seq.n.toNat * s.seq.w.toNat * s.seq.h.toNat }

/-- `chk_fiu(D, id)` (60_exceptions.md R117). -/
def chkFiu (D : Surface) (id : Byte) (s : State) : Option Raise :=
  require ((s.seq.run && D.span.overlaps s.activeSet) = false) (raised .f1 id opFrames D.base)

/-! ## The shape of a command -/

/-- A command: its checks in order before any write (40_control.md R81, 60_exceptions.md R118); the
first that fails is taken as a fault, and otherwise the command has its effect and CP advances
(40_control.md R79, R82). -/
def runChecked (checks : List (Option Raise)) (effect s : State) :
    Host.Outcome State Fault Refusal :=
  match firstRaise checks with
  | some r => .next (s.takeFault r)
  | none => .next effect.advance

end Sys2Proof.Machine
end

