-- ==== Sys2Proof/Machine/Compositor.lean ====
section
/-! DEFINITION. The canvas compositor (42_compositor.md R92-R95). -/

namespace Sys2Proof.Machine

/-- `scale_dims(w, h, CW, CH)` (42_compositor.md R92): the scaled width and height. -/
def scaleDims (w h cw ch : Nat) : Nat × Nat :=
  if w ≤ cw ∧ h ≤ ch then (w, h)
  else if cw * h ≤ ch * w then (max 1 cw, max 1 (h * cw / w))
  else (max 1 (w * ch / h), max 1 ch)

/-- The sum of f over 0, …, n-1. -/
def sumBelow (n : Nat) (f : Nat → Nat) : Nat :=
  match n with
  | 0 => 0
  | k + 1 => sumBelow k f + f k

/-- The overlap of source cell u with output cell j, in units of 1/sn source cells, when n source cells
shrink to sn output cells: `max(0, min((u+1)*sn, (j+1)*n) - max(u*sn, j*n))` (42_compositor.md R93).
The subtraction of naturals is already cut at 0. -/
def boxWeight (n sn j u : Nat) : Nat := min ((u + 1) * sn) ((j + 1) * n) - max (u * sn) (j * n)

/-- The accumulator of output sample (i, j) of the box filter (42_compositor.md R93). -/
def boxAcc (w h : Nat) (pix : Nat → Nat → Nat) (sw sh i j : Nat) : Nat :=
  sumBelow h fun v => sumBelow w fun u => boxWeight w sw j u * boxWeight h sh i v * pix v u

/-- Output sample (i, j) of `box(S, sw, sh)` (42_compositor.md R93): the area-weighted mean, rounded half
up. -/
def box (w h : Nat) (pix : Nat → Nat → Nat) (sw sh i j : Nat) : Nat :=
  (2 * boxAcc w h pix sw sh i j + w * h) / (2 * (w * h))

/-- The scaled image: the source itself when the size is unchanged, else the box filter
(42_compositor.md R95). -/
def scaled (w h : Nat) (pix : Nat → Nat → Nat) (sw sh i j : Nat) : Nat :=
  if (sw, sh) = (w, h) then pix i j else box w h pix sw sh i j

/-- `placement(CW, CH, sw, sh)` along one axis (42_compositor.md R94): an odd padding is biased to the
trailing edge. -/
def placement (center : Bool) (canvas size : Nat) : Nat :=
  if center then (canvas - size) / 2 else 0

/-- The border value (42_compositor.md R95): MAX of the format, or FILL. -/
def fillValue (t : Fmt) (c : CeConfig) : Nat := if c.fillMax then maxOf t else c.fill.toNat

/-- Canvas sample (y, x): the scaled image inside the window at (yo, xo), the border elsewhere. -/
def canvasSample (fill yo xo sh sw : Nat) (p : Nat → Nat → Nat) (y x : Nat) : Nat :=
  if yo ≤ y ∧ y < yo + sh ∧ xo ≤ x ∧ x < xo + sw then p (y - yo) (x - xo) else fill

/-- COMPOSE (42_compositor.md R95): the canvas has the source's format. -/
def execCompose (t : Fmt) (src w h dst : Nat) (s : State) : Host.Outcome State Fault Refusal :=
  let S : Surface := { base := src, w := w, h := h, fmt := t }
  let cw := s.cfg.canvasW.toNat
  let ch := s.cfg.canvasH.toNat
  let C : Surface := { base := dst, w := cw, h := ch, fmt := t }
  let fill := fillValue t s.cfg
  let sw := (scaleDims w h cw ch).1
  let sh := (scaleDims w h cw ch).2
  runChecked
    [chkNotNull S,
     require (fill ≤ maxOf t) (raised .v7 opCmd 0 0),
     require (sw ≤ cw) (raised .g1 opSrc 0 0),
     require (sh ≤ ch) (raised .g2 opSrc 0 0),
     chkSurface S opSrc s, chkSurface C opDst0 s,
     chkOverlap S opSrc C opDst0,
     chkFiu C opDst0 s]
    ((s.touch [S.span, C.span]).storeSurface C
      (canvasSample fill (placement s.cfg.center ch sh) (placement s.cfg.center cw sw) sh sw
        (scaled w h (S.pix s) sw sh)))
    s

end Sys2Proof.Machine
end

