-- ==== Sys2Proof/Machine/Control.lean ====
section
/-! DEFINITION. The control commands HALT and NOP (40_control.md R86, R87). -/

namespace Sys2Proof.Machine

/-- HALT (40_control.md R86). -/
def execHalt (s : State) : Host.Outcome State Fault Refusal := .next s.haltTake

/-- NOP (40_control.md R87): only CP advances. -/
def execNop (s : State) : Host.Outcome State Fault Refusal := .next s.advance

end Sys2Proof.Machine
end

