-- ==== Sys2Proof/Machine/Dither.lean ====
section
/-! DEFINITION. The bit-plane decomposer and the dither frame synthesis (43_bitplane_dither.md
R97-R101). -/

namespace Sys2Proof.Machine

/-- `value12(v) = v >> 4` (43_bitplane_dither.md R97). -/
def value12 (v : Nat) : Nat := v >>> 4

/-- `base(v) = value12(v) >> 4` (43_bitplane_dither.md R97). -/
def baseOf (v : Nat) : Nat := value12 v >>> 4

/-- `remainder(v) = value12(v) & 0xF` (43_bitplane_dither.md R97). -/
def remainderOf (v : Nat) : Nat := value12 v &&& 0xF

/-- Whether frame f goes up at remainder r: `r > f`, or `r >= f` when CMP_GE is set
(43_bitplane_dither.md R98). -/
def goesUp (cmpGe : Bool) (r f : Nat) : Bool := if cmpGe then decide (f ≤ r) else decide (f < r)

/-- `frame_val(v, f)` (43_bitplane_dither.md R98), clipped at 255. -/
def frameVal (cmpGe : Bool) (v f : Nat) : Nat :=
  min 255 (baseOf v + (goesUp cmpGe (remainderOf v) f).toNat)

/-- DECOMP (43_bitplane_dither.md R99): one byte per sample in each plane. -/
def execDecomp (t : Fmt) (src w h dstb dstr : Nat) (s : State) :
    Host.Outcome State Fault Refusal :=
  let S : Surface := { base := src, w := w, h := h, fmt := t }
  let B : Surface := { base := dstb, w := w, h := h, fmt := .u8 }
  let M : Surface := { base := dstr, w := w, h := h, fmt := .u8 }
  runChecked
    [chkNotNull S,
     require (t = .u16) (raised .v4 opSrc 0 0),
     chkSurface S opSrc s, chkSurface B opDst0 s, chkSurface M opDst1 s,
     chkOverlap S opSrc B opDst0, chkOverlap S opSrc M opDst1, chkOverlap B opDst0 M opDst1,
     chkFiu B opDst0 s, chkFiu M opDst1 s]
    (((s.touch [S.span, B.span, M.span]).storeSurface B fun y x => baseOf (S.pix s y x)).storeSurface M
      fun y x => remainderOf (S.pix s y x))
    s

/-- DITH1 (43_bitplane_dither.md R100): frame f of the set. -/
def execDith1 (t : Fmt) (src w h dst f : Nat) (s : State) : Host.Outcome State Fault Refusal :=
  let S : Surface := { base := src, w := w, h := h, fmt := t }
  let D : Surface := { base := dst, w := w, h := h, fmt := .u8 }
  runChecked
    [chkNotNull S,
     require (t = .u16) (raised .v4 opSrc 0 0),
     require (s.cfg.frames.toNat ≠ 0) (raised .v5 opCmd 0 0),
     require (f < s.cfg.frames.toNat) (raised .v6 opCmd 0 0),
     chkSurface S opSrc s, chkSurface D opDst0 s,
     chkOverlap S opSrc D opDst0,
     chkFiu D opDst0 s]
    ((s.touch [S.span, D.span]).storeSurface D fun y x => frameVal s.cfg.cmpGe (S.pix s y x) f)
    s

/-- DITHN (43_bitplane_dither.md R101): frame k stands at row k*h of the surface of the whole set, so
row y of the set is row y mod h of frame y / h. -/
def execDithn (t : Fmt) (src w h dst : Nat) (s : State) : Host.Outcome State Fault Refusal :=
  let S : Surface := { base := src, w := w, h := h, fmt := t }
  let FS : Surface := { base := dst, w := w, h := s.cfg.frames.toNat * h, fmt := .u8 }
  runChecked
    [chkNotNull S,
     require (t = .u16) (raised .v4 opSrc 0 0),
     require (s.cfg.frames.toNat ≠ 0) (raised .v5 opCmd 0 0),
     chkSurface S opSrc s, chkSurface FS opDst0 s,
     chkOverlap S opSrc FS opDst0,
     chkFiu FS opDst0 s]
    ((s.touch [S.span, FS.span]).storeSurface FS fun y x =>
      frameVal s.cfg.cmpGe (S.pix s (y % h) x) (y / h))
    s

end Sys2Proof.Machine
end

