-- ==== Sys2Proof/Machine/Tone.lean ====
section
/-! DEFINITION. The tone unit: LUTLD, LUT and INV (41_tone.md R88-R90). -/

namespace Sys2Proof.Machine

/-- LUTLD (41_tone.md R88): entry r*256 + c of LUT RAM becomes sample (r, c) of the grid. -/
def execLutld (t : Fmt) (src w h : Nat) (s : State) : Host.Outcome State Fault Refusal :=
  let G : Surface := { base := src, w := w, h := h, fmt := t }
  runChecked
    [require (w = 256) (raised .v1 opSrc 0 0),
     require (h = 256) (raised .v2 opSrc 0 0),
     require (t = .u16) (raised .v3 opSrc 0 0),
     chkSurface G opSrc s]
    ((s.touch [G.span]).loadLut fun i => BitVec.ofNat 16 (G.pix s (i / 256) (i % 256)))
    s

/-- LUT (41_tone.md R89): the output is U16 whatever the source format; a U8 sample is widened by zero
extension. -/
def execLut (t : Fmt) (src w h dst : Nat) (s : State) : Host.Outcome State Fault Refusal :=
  let S : Surface := { base := src, w := w, h := h, fmt := t }
  let D : Surface := { base := dst, w := w, h := h, fmt := .u16 }
  runChecked
    [chkNotNull S,
     require (s.lutValid = true) (raised .p2 opCmd 0 0),
     chkSurface S opSrc s, chkSurface D opDst0 s,
     chkOverlap S opSrc D opDst0,
     chkFiu D opDst0 s]
    ((s.touch [S.span, D.span]).storeSurface D fun y x =>
      (s.lutRead (BitVec.ofNat 16 (S.pix s y x))).toNat)
    s

/-- INV (41_tone.md R90): the format never changes. -/
def execInv (t : Fmt) (src w h dst : Nat) (s : State) : Host.Outcome State Fault Refusal :=
  let S : Surface := { base := src, w := w, h := h, fmt := t }
  let D : Surface := { base := dst, w := w, h := h, fmt := t }
  runChecked
    [chkNotNull S,
     chkSurface S opSrc s, chkSurface D opDst0 s,
     chkOverlap S opSrc D opDst0,
     chkFiu D opDst0 s]
    ((s.touch [S.span, D.span]).storeSurface D fun y x => maxOf t - S.pix s y x)
    s

end Sys2Proof.Machine
end

