-- ==== Sys2Proof/Machine/Dispatch.lean ====
section
/-! DEFINITION. The meaning of every command: one arm per constructor of Instr. -/

namespace Sys2Proof.Machine

def exec (i : Instr) (s : State) : Host.Outcome State Fault Refusal :=
  match i with
  -- control
  | .halt => Sys2Proof.Machine.execHalt s
  | .nop => Sys2Proof.Machine.execNop s
  -- tone unit
  | .lutld t src w h => Sys2Proof.Machine.execLutld t src w h s
  | .lut t src w h dst => Sys2Proof.Machine.execLut t src w h dst s
  | .inv t src w h dst => Sys2Proof.Machine.execInv t src w h dst s
  -- canvas compositor
  | .compose t src w h dst => Sys2Proof.Machine.execCompose t src w h dst s
  -- bit planes and dither
  | .decomp t src w h dstb dstr => Sys2Proof.Machine.execDecomp t src w h dstb dstr s
  | .dith1 t src w h dst f => Sys2Proof.Machine.execDith1 t src w h dst f s
  | .dithn t src w h dst => Sys2Proof.Machine.execDithn t src w h dst s

end Sys2Proof.Machine
end

