-- ==== Sys2Proof/Machine/Sequencer.lean ====
section
/-! DEFINITION. Frame sequencer playback (44_sequencer.md R104-R110) and the presentation port
(10_state.md R45). -/

namespace Sys2Proof.Machine

/-- `interval(D, N, MIN) = max(ceil(D / N), MIN, 1)` (44_sequencer.md R104). -/
def seqIntervalOf (d n minInterval : Nat) : Nat := max (max ((d + n - 1) / n) minInterval) 1

/-- The code of a refused sequencer START, 0 when it is accepted (44_sequencer.md R105, R106): the first
check of the table that fails. -/
def State.seqRefusal (s : State) : Nat :=
  if s.cfg.frames.toNat = 0 then 1
  else if s.cfg.canvasW.toNat = 0 ∨ s.cfg.canvasH.toNat = 0 then 2
  else if s.seqCfg.base.toNat + s.cfg.frames.toNat * s.cfg.canvasW.toNat * s.cfg.canvasH.toNat
      > s.params.lmemSize then 3
  else 0

/-- `seq_refuse(e)` (44_sequencer.md R105). -/
def State.seqRefuse (s : State) (e : Nat) : State :=
  { s.setIrq .seqErr with seq := { s.seq with err := BitVec.ofNat 8 e } }

/-- The accepted part of `seq_start()` (44_sequencer.md R105): everything is latched and frame 0 is
presented. A new playback has no overwritten bytes (log entry 9). -/
def State.seqLatch (s : State) : State :=
  { s with
    seq :=
      { run := true, index := 0, elapsed := 0, shown := 0, err := 0
        interval := BitVec.ofNat 32
          (seqIntervalOf s.seqCfg.duration.toNat s.cfg.frames.toNat s.seqCfg.minInterval.toNat)
        n := s.cfg.frames, w := s.cfg.canvasW, h := s.cfg.canvasH
        presAddr := s.seqCfg.base }
    stale := [] }

/-- A host write of 1 to `SEQ_CTRL.STOP` (44_sequencer.md R107), and the cancelling of a running job by
a START (R105): only seq_run changes. -/
def State.seqStop (s : State) : State := { s with seq := { s.seq with run := false } }

/-- `seq_start()` (44_sequencer.md R105): a host write of 1 to `SEQ_CTRL.START`. -/
def State.seqStart (s : State) : State :=
  if s.seqRefusal = 0 then s.seqStop.seqLatch else s.seqStop.seqRefuse s.seqRefusal

/-- The tick that completes the last frame of the last pass (44_sequencer.md R108). -/
def State.seqFinish (s : State) (shown : Word) : State :=
  { s.setIrq .seqDone with seq := { s.seq with elapsed := 0, shown := shown, run := false } }

/-- The index of the frame after the presented one, with wraparound (44_sequencer.md R108). -/
def State.nextIndex (s : State) : Nat := (s.seq.index.toNat + 1) % s.seq.n.toNat

/-- The tick that replaces the presented frame by the next one (44_sequencer.md R108). -/
def State.seqNextFrame (s : State) (shown : Word) : State :=
  { s.setIrq .seqFrame with
    seq :=
      { s.seq with
        elapsed := 0, shown := shown
        index := BitVec.ofNat 8 s.nextIndex
        presAddr := BitVec.ofNat 32
          (s.seqCfg.base.toNat + s.nextIndex * s.seq.w.toNat * s.seq.h.toNat) } }

/-- The tick that ends an interval (44_sequencer.md R108). -/
def State.seqBoundary (s : State) : State :=
  let shown := s.seq.shown + 1#32
  if s.seqCfg.passes.toNat ≠ 0 ∧ shown.toNat = s.seq.n.toNat * s.seqCfg.passes.toNat then
    s.seqFinish shown
  else s.seqNextFrame shown

/-- `seq_tick()` (44_sequencer.md R108): a tick of the time base (00_scope.md R8). Ticks while stopped
are lost. -/
def State.seqTick (s : State) : State :=
  if s.seq.run = false then s
  else if s.seq.elapsed.toNat + 1 < s.seq.interval.toNat then
    { s with seq := { s.seq with elapsed := s.seq.elapsed + 1#32 } }
  else s.seqBoundary

/-- The presentation port (10_state.md R45). -/
structure PresPort where
  valid : Bool
  addr : Word
  index : Byte
  w : Half
  h : Half
deriving DecidableEq, Repr

/-- What the presentation port carries (10_state.md R45): no frame while `seq_run = 0`. -/
def State.presPort (s : State) : PresPort :=
  { valid := s.seq.run, addr := s.seq.presAddr, index := s.seq.index, w := s.seq.w, h := s.seq.h }

/-- The surface the display may read while `pres_valid = 1` (44_sequencer.md R110). -/
def State.presented (s : State) : Surface :=
  { base := s.seq.presAddr.toNat, w := s.seq.w.toNat, h := s.seq.h.toNat, fmt := .u8 }

end Sys2Proof.Machine
end

