-- ==== Sys2Proof/Machine/Registers.lean ====
section
/-! DEFINITION. The register map and the register access rules (10_state.md R21-R40). -/

namespace Sys2Proof.Machine

/-- The registers in the order of the map. -/
def Reg.all : List Reg :=
  [.id, .ctrl, .status, .clBase, .cp, .errCode, .errInfo, .errAddr, .errCp, .config, .fill, .canvasW,
   .canvasH, .frames, .irqStatus, .irqEnable, .seqCtrl, .seqBase, .seqDuration, .seqMinInterval,
   .seqPasses, .seqInterval, .seqIndex, .seqElapsed, .seqShown, .seqN, .seqGeom, .seqErr, .seqPresAddr]

/-- The offset of a register from REG_BASE (10_state.md R21). -/
def Reg.offset (r : Reg) : Nat :=
  match r with
  | .id => 0x00
  | .ctrl => 0x04
  | .status => 0x08
  | .clBase => 0x0C
  | .cp => 0x10
  | .errCode => 0x14
  | .errInfo => 0x18
  | .errAddr => 0x1C
  | .errCp => 0x20
  | .config => 0x24
  | .fill => 0x28
  | .canvasW => 0x2C
  | .canvasH => 0x30
  | .frames => 0x34
  | .irqStatus => 0x38
  | .irqEnable => 0x3C
  | .seqCtrl => 0x40
  | .seqBase => 0x44
  | .seqDuration => 0x48
  | .seqMinInterval => 0x4C
  | .seqPasses => 0x50
  | .seqInterval => 0x54
  | .seqIndex => 0x58
  | .seqElapsed => 0x5C
  | .seqShown => 0x60
  | .seqN => 0x64
  | .seqGeom => 0x68
  | .seqErr => 0x6C
  | .seqPresAddr => 0x70

/-- The register at an offset; 0x74 to 0xFC are reserved (10_state.md R21). -/
def Reg.ofOffset (o : Nat) : Option Reg := Reg.all.find? fun r => r.offset = o

/-- ID (10_state.md R24). -/
def idValue : Word := 0x544C4C01

/-- A host read of a register (10_state.md R19, R24-R40): reserved bits read 0, write-only registers
read 0, and a read has no side effect (R22). -/
def State.readReg (s : State) (r : Reg) : Word :=
  match r with
  | .id => idValue
  | .ctrl => 0
  | .status => s.status
  | .clBase => s.cfg.clBase
  | .cp => s.cp
  | .errCode => s.err.code.setWidth 32
  | .errInfo => 0#8 ++ s.err.opb ++ s.err.opa ++ s.err.sub
  | .errAddr => s.err.addr
  | .errCp => s.err.cp
  | .config => s.cfg.config.setWidth 32
  | .fill => s.cfg.fill.setWidth 32
  | .canvasW => s.cfg.canvasW.setWidth 32
  | .canvasH => s.cfg.canvasH.setWidth 32
  | .frames => s.cfg.frames.setWidth 32
  | .irqStatus => s.irqStatus.setWidth 32
  | .irqEnable => s.irqEnable.setWidth 32
  | .seqCtrl => 0
  | .seqBase => s.seqCfg.base
  | .seqDuration => s.seqCfg.duration
  | .seqMinInterval => s.seqCfg.minInterval
  | .seqPasses => s.seqCfg.passes.setWidth 32
  | .seqInterval => s.seq.interval
  | .seqIndex => s.seq.index.setWidth 32
  | .seqElapsed => s.seq.elapsed
  | .seqShown => s.seq.shown
  | .seqN => s.seq.n.setWidth 32
  | .seqGeom => s.seq.h ++ s.seq.w
  | .seqErr => s.seq.err.setWidth 32
  | .seqPresAddr => s.seq.presAddr

/-- A host write to a register locked while a run is busy: dropped and reported, or the new
configuration at once (10_state.md R23). -/
def State.setCfg (s : State) (c : CeConfig) : State :=
  if s.ceBusy then s.setIrq .lockViol else { s with cfg := c }

/-- A host write to a register locked while the sequencer runs (10_state.md R23). -/
def State.setSeqCfg (s : State) (c : SeqConfig) : State :=
  if s.seq.run then s.setIrq .lockViol else { s with seqCfg := c }

/-- A host write to CTRL (10_state.md R25): ABORT first, then START. -/
def State.writeCtrl (s : State) (v : Word) : State :=
  let aborted := if v.getLsbD 1 then s.requestAbort else s
  if v.getLsbD 0 then aborted.startRun else aborted

/-- A host write to SEQ_CTRL (10_state.md R38): STOP first, then START. -/
def State.writeSeqCtrl (s : State) (v : Word) : State :=
  let stopped := if v.getLsbD 1 then s.seqStop else s
  if v.getLsbD 0 then stopped.seqStart else stopped

/-- A host write to a register: a read-only register ignores it and sets no status bit, reserved bits
ignore it (10_state.md R22). -/
def State.writeReg (s : State) (r : Reg) (v : Word) : State :=
  match r with
  | .id | .status | .cp | .errCode | .errInfo | .errAddr | .errCp | .seqInterval | .seqIndex
  | .seqElapsed | .seqShown | .seqN | .seqGeom | .seqErr | .seqPresAddr => s
  | .ctrl => s.writeCtrl v
  | .clBase => s.setCfg { s.cfg with clBase := v }
  | .config => s.setCfg { s.cfg with config := v.setWidth 3 }
  | .fill => s.setCfg { s.cfg with fill := v.setWidth 16 }
  | .canvasW => s.setCfg { s.cfg with canvasW := v.setWidth 16 }
  | .canvasH => s.setCfg { s.cfg with canvasH := v.setWidth 16 }
  | .frames => s.setCfg { s.cfg with frames := v.setWidth 8 }
  | .irqStatus => s.clearIrq (v.setWidth 8)
  | .irqEnable => { s with irqEnable := v.setWidth 8 }
  | .seqCtrl => s.writeSeqCtrl v
  | .seqBase => s.setSeqCfg { s.seqCfg with base := v }
  | .seqDuration => s.setSeqCfg { s.seqCfg with duration := v }
  | .seqMinInterval => s.setSeqCfg { s.seqCfg with minInterval := v }
  | .seqPasses => s.setSeqCfg { s.seqCfg with passes := v.setWidth 16 }

/-- A read at an offset: 0 where it is reserved (10_state.md R22). -/
def State.readOffset (s : State) (o : Nat) : Word :=
  match Reg.ofOffset o with
  | some r => s.readReg r
  | none => 0

/-- A write at an offset: ignored where it is reserved (10_state.md R22). -/
def State.writeOffset (s : State) (o : Nat) (v : Word) : State :=
  match Reg.ofOffset o with
  | some r => s.writeReg r v
  | none => s

end Sys2Proof.Machine
end

