-- ==== Sys2Proof/Machine/Ports.lean ====
section
/-! DEFINITION. The host's and the display's ports (10_state.md R45): the register port, the host memory
port, the display memory read port, and the reset input. -/

namespace Sys2Proof.Machine

/-- Bytes of an access. -/
def Width.bytes (n : Width) : Nat :=
  match n with
  | .b1 => 1
  | .b2 => 2
  | .b4 => 4

/-- Records what a read answered (44_sequencer.md R110). -/
def State.observe (s : State) (o : Observation) : State := { s with record := o :: s.record }

/-- A draw of free values has been used up (log entry 6). -/
def State.drawFree (s : State) : State := { s with freeCount := s.freeCount + 1 }

/-! ## The register port -/

/-- A register access is one the block answers: inside its 256 bytes, 32 bits wide, at a multiple of 4
(10_state.md R21, R22). The reason it is refused otherwise. -/
def State.portRefusal (s : State) (n : Width) (addr : Nat) : Option Refusal :=
  if addr < s.params.regBase ∨ s.params.regBase + 256 ≤ addr then some .outsideRegisterBlock
  else if n ≠ .b4 ∨ (addr - s.params.regBase) % 4 ≠ 0 then some .narrowRegisterAccess
  else none

/-- A host read of a register: no side effect (10_state.md R22); the answer is recorded. -/
def hostRegRead (n : Width) (addr : Nat) (s : State) : Host.Outcome State Fault Refusal :=
  match s.portRefusal n addr with
  | some r => .refused r
  | none =>
    .next (s.observe (.register (addr - s.params.regBase) (s.readOffset (addr - s.params.regBase))))

/-- A host write of a register (10_state.md R22, R23). -/
def hostRegWrite (n : Width) (addr : Nat) (v : Word) (s : State) :
    Host.Outcome State Fault Refusal :=
  match s.portRefusal n addr with
  | some r => .refused r
  | none => .next (s.writeOffset (addr - s.params.regBase) v)

/-! ## The host memory port -/

/-- A host memory access the block carries out: naturally aligned and inside LMEM (20_memory.md R49,
R55). The reason it is refused otherwise. -/
def State.memRefusal (s : State) (n : Width) (addr : Nat) : Option Refusal :=
  if addr % n.bytes ≠ 0 then some .misalignedHostAccess
  else if s.params.lmemSize < addr + n.bytes then some .hostAccessOutsideLmem
  else none

/-- The run is busy and reads or writes the byte at a: it has touched it already, or it goes on to do
so (20_memory.md R60; log entry 7). -/
def State.racesAt (s : State) (races : List Nat) (a : Nat) : Bool :=
  s.ceBusy && (races.contains a || heldBy s.race.touched a)

/-- The bytes of an access that the run is said to go on to read or write, and has not yet, are awaited:
the end of the run checks that it did (20_memory.md R60; log entry 7). -/
def State.await (s : State) (I : Span) (races : List Nat) : State :=
  { s with race :=
    { s.race with
      awaited :=
        (I.addresses.filter fun a => s.racesAt races a && !heldBy s.race.touched a) ++ s.race.awaited } }

/-- The byte a host read sees: an unspecified one where it races with the run (20_memory.md R60). -/
def State.hostByte (s : State) (races : List Nat) (a : Nat) : Byte :=
  if s.racesAt races a then Config.freeByte s.freeCount a else s.readByte a

/-- A host read through the memory port (20_memory.md R55). -/
def hostMemRead (n : Width) (addr : Nat) (races : List Nat) (s : State) :
    Host.Outcome State Fault Refusal :=
  match s.memRefusal n addr with
  | some r => .refused r
  | none =>
    .next ((s.await { lo := addr, len := n.bytes } races).drawFree.observe
      (.memory n addr (BitVec.ofNat 32 (leValue (s.hostByte races) addr n.bytes))))

/-- What a host write during a run does to the run (20_memory.md R60): if it hits a byte the run reads
or writes, every byte the run writes from then on is unspecified; otherwise the model keeps the written
bytes, in case the run reaches them after all (log entry 7). -/
def State.disturb (s : State) (I : Span) (races : List Nat) : State :=
  if s.ceBusy = false then s
  else if I.addresses.any (s.racesAt races) then
    { s with race := { s.race with tainted := true } }
  else { s with race := { s.race with hostWrites := I :: s.race.hostWrites } }

/-- The bytes of I that lie in the active frame set, with their present values. -/
def State.presentedBytes (s : State) (I : Span) : List Host.Cell :=
  (I.addresses.filter s.activeSet.holds).map fun a => (a, s.readByte a)

/-- What a host write does to the presented frame set (20_memory.md R61, 93 U6): the overwritten bytes
stay among what the display may read (log entry 9). -/
def State.overwritePresented (s : State) (I : Span) : State :=
  if s.seq.run then { s with stale := s.presentedBytes I ++ s.stale } else s

/-- A host write through the memory port (20_memory.md R55): the low bytes of v. -/
def hostMemWrite (n : Width) (addr : Nat) (v : Word) (races : List Nat) (s : State) :
    Host.Outcome State Fault Refusal :=
  let I : Span := { lo := addr, len := n.bytes }
  match s.memRefusal n addr with
  | some r => .refused r
  | none =>
    .next ((((s.overwritePresented I).await I races).disturb I races).putBytes addr n.bytes
      (leByte v.toNat))

/-! ## The display memory read port -/

/-- The values the display may read of a presented byte: the present one, and those the host overwrote
while it was presented (93_implementation_defined.md U6). -/
def State.shownBytes (s : State) (a : Nat) : List Byte :=
  s.readByte a :: (s.stale.filter fun c => c.1 = a).map Prod.snd

/-- The byte the display reads at a presented address: the only one possible, or a free choice. -/
def State.shownByte (s : State) (a : Nat) : Byte :=
  match s.shownBytes a with
  | [b] => b
  | bs => bs.getD (Config.freeChoice s.freeCount % bs.length) (s.readByte a)

/-- A display read (44_sequencer.md R110): a byte of the presented frame, recorded. With no frame
presented the display shows `DISPLAY_IDLE` (93_implementation_defined.md U7; log entry 10). -/
def displayRead (y x : Nat) (s : State) : Host.Outcome State Fault Refusal :=
  if s.seq.run = false then .next (s.observe (.display y x (Config.displayIdle y x)))
  else if s.presented.h ≤ y ∨ s.presented.w ≤ x then .refused .displayOutsideFrame
  else if s.params.lmemSize ≤ s.presented.addr y x then .fault .noSuchAddress
  else
    .next (s.drawFree.observe
      (.display y x (s.shownByte (s.presented.addr y x))))

/-! ## The reset input -/

/-- The reset input (70_reset_and_hazards.md R131): whatever the block was doing. LMEM and LUT RAM take
other unspecified contents; the platform, the pending steps and the record stay. -/
def resetBlock (s : State) : State :=
  State.afterReset s.params s.freeCount s.schedule s.record

end Sys2Proof.Machine
end

