-- ==== Sys2Proof/Machine/Engine.lean ====
section
/-! DEFINITION. The command engine's step (40_control.md R79) and the steps of all agents, one at a time
(60_exceptions.md R124). -/

namespace Sys2Proof.Machine

/-- Decode the fetched words and execute (40_control.md R79, 30_encoding.md R72). -/
def decodeExec (W : CmdWords) (s : State) : Host.Outcome State Fault Refusal :=
  match decode W with
  | .error e => .next (s.takeFault (illegalRaise e))
  | .ok i => exec i s

/-- Fetch, decode and execute the command at CP (40_control.md R79, R80). -/
def runCommand (s : State) : Host.Outcome State Fault Refusal :=
  match s.fetchCheck with
  | some r => .next (s.takeFault r)
  | none => decodeExec s.fetchWords (s.touch [s.cmdSpan])

/-- The outcome of the engine's step, once the model has checked that a run which ends has touched every
byte a host access raced for (20_memory.md R60; log entry 7). It says nothing of the block itself. -/
def settled (o : Host.Outcome State Fault Refusal) : Host.Outcome State Fault Refusal :=
  match o with
  | .next t => if t.ceBusy = false ∧ t.race.awaited ≠ [] then .refused .raceNeverHappened else .next t
  | .fault e => .fault e
  | .refused r => .refused r

/-- `ce_step()` (40_control.md R79): while idle the CE has no step; a pending abort is taken before the
fetch (R83). -/
def ceStep (s : State) : Host.Outcome State Fault Refusal :=
  if s.ceBusy = false then .next s
  else settled (if s.abortPend then .next s.abortTake else runCommand s)

/-- One step of one agent (60_exceptions.md R124). -/
def agentStep (e : Event) (s : State) : Host.Outcome State Fault Refusal :=
  match e with
  | .regRead n a => hostRegRead n a s
  | .regWrite n a v => hostRegWrite n a v s
  | .memRead n a races => hostMemRead n a races s
  | .memWrite n a v races => hostMemWrite n a v races s
  | .ceStep => ceStep s
  | .tick => .next s.seqTick
  | .displayRead y x => displayRead y x s
  | .resetInput => .next (resetBlock s)

/-- The next step of the block: the first pending one; with none pending, a step of the command engine,
which a busy engine eventually takes (40_control.md R79) and an idle one does not have (60_exceptions.md
R130). Log entry 2. -/
def blockStep (s : State) : Host.Outcome State Fault Refusal :=
  match s.schedule with
  | [] => ceStep s
  | e :: rest => agentStep e { s with schedule := rest }

/-- Where a program loaded from outside is fetched: CP, or address 0 where CP could not be fetched from
(log entry 3). -/
def State.loadPoint (s : State) : Word := if s.fetchCheck = none then s.cp else 0

/-- The 32 bytes of a command placed where the engine fetches next, the engine busy there, no abort and
no other step pending (log entry 3). -/
def State.placeCommand (s : State) (b : Nat → Byte) : State :=
  { s.putBytes s.loadPoint.toNat 32 b with
    cp := s.loadPoint, ceBusy := true, abortPend := false, schedule := [] }

end Sys2Proof.Machine
end

