-- ==== Sys2Proof/Machine/Step.lean ====
section
/-! DEFINITION. One step of the machine, and a command stored where the next step fetches. -/

namespace Sys2Proof.Machine

/-- One step of the block: one step of one of its agents (60_exceptions.md R124). -/
def step (s : State) : Host.Outcome State Fault Refusal := blockStep s

/-- The state with the command whose bits are w (below nbits; the rest 0) placed so that the next step
fetches and runs it. It stands for the host's load and START (70_reset_and_hazards.md R134; log
entry 3). -/
def State.withFetchWord (s : State) (nbits w : Nat) : State :=
  s.placeCommand (leByte (w % 2 ^ nbits))

end Sys2Proof.Machine
end

