-- ==== Sys2Proof/Machine/Assembler.lean ====
section
/-! DEFINITION. The programmer's side of the spec, which the block never sees: the assembler's
statements (30_encoding.md R74), the pseudo-instructions (R75) and the host's notation (R76). The
text of a command list is Machine/AsmText.lean. -/

namespace Sys2Proof.Machine

/-- A statement of a command list (30_encoding.md R74). -/
inductive Stmt where
  /-- `.org A`: the next command is placed at A. -/
  | org (a : Nat)
  /-- `.cmd w0, …, w7`: the eight words as given. -/
  | cmd (W : CmdWords)
  /-- `label:` binds the address of the next command. -/
  | label (name : String)
  /-- A command by its mnemonic. -/
  | instr (i : Instr)
deriving DecidableEq, Repr

/-- The address of the next command, when the assembler stands at a. -/
def nextAddress (a : Nat) (p : List Stmt) : Nat :=
  match p with
  | .org b :: rest => nextAddress b rest
  | .label _ :: rest => nextAddress a rest
  | _ => a

/-- The addresses the labels bind (30_encoding.md R74). -/
def labelsFrom (a : Nat) (p : List Stmt) : List (String × Nat) :=
  match p with
  | [] => []
  | .org b :: rest => labelsFrom b rest
  | .label name :: rest => (name, nextAddress a rest) :: labelsFrom a rest
  | .cmd _ :: rest => labelsFrom (a + 32) rest
  | .instr _ :: rest => labelsFrom (a + 32) rest

/-- The commands with their addresses, each advancing the address by 32 (30_encoding.md R74). `none`
where the assembler refuses: an `.org` that is no multiple of 4, an address outside 0 to 2^32-1, or
an operand outside its range. A wrong format is not refused. -/
def assembleFrom (a : Nat) (p : List Stmt) : Option (List (Nat × CmdWords)) :=
  match p with
  | [] => some []
  | .org b :: rest => if b % 4 = 0 ∧ addrFits b then assembleFrom b rest else none
  | .label _ :: rest => assembleFrom a rest
  | .cmd W :: rest => if addrFits a then (assembleFrom (a + 32) rest).map ((a, W) :: ·) else none
  | .instr i :: rest =>
    if addrFits a ∧ i.WellFormed then (assembleFrom (a + 32) rest).map ((a, encode i) :: ·) else none

/-- `TONE.<t> src, w, h, tmp, dst` (30_encoding.md R75): the inversion runs on U16. -/
def pseudoTone (t : Fmt) (src w h tmp dst : Nat) : List Instr :=
  [.lut t src w h tmp, .inv .u16 tmp w h dst]

/-- `PRINT.<t> src, w, h, t1, t2, canvas, cw, ch, frames` (30_encoding.md R75). -/
def pseudoPrint (t : Fmt) (src w h t1 t2 canvas cw ch frames : Nat) : List Instr :=
  [.lut t src w h t1, .inv .u16 t1 w h t2, .compose .u16 t2 w h canvas, .dithn .u16 canvas cw ch frames,
   .halt]

/-! ## The host's notation (30_encoding.md R76) -/

/-- `W32 NAME, v`. -/
def hostW32 (p : Params) (r : Reg) (v : Word) : Event := .regWrite .b4 (p.regBase + r.offset) v

/-- `RD32 NAME`. -/
def hostRd32 (p : Params) (r : Reg) : Event := .regRead .b4 (p.regBase + r.offset)

/-- `LMEM[a..] <- bytes`: host memory-port writes, one byte each, racing with no run. -/
def hostFill (a : Nat) (bytes : List Byte) : List Event :=
  bytes.zipIdx.map fun c => .memWrite .b1 (a + c.2) (c.1.setWidth 32) []

/-- `WAIT_IDLE` that reads STATUS k times, the engine stepping before each read. -/
def hostWaitIdle (p : Params) (k : Nat) : List Event :=
  (List.replicate k [Event.ceStep, hostRd32 p .status]).flatten

/-- `TICKS n`. -/
def hostTicks (n : Nat) : List Event := List.replicate n .tick

/-- The host's load of an assembled command list: the bytes of each command at its address. -/
def hostLoad (commands : List (Nat × CmdWords)) : List Event :=
  commands.flatMap fun c => hostFill c.1 ((List.range 32).map c.2.byte)

end Sys2Proof.Machine
end

