-- ==== Sys2Proof/Safety.lean ====
section
/-! DEFINITION. What counts as a legal state and an undisturbed command, in the terms the claims use. -/

namespace Sys2Proof.Machine

/-! ## Operands of a command that meets its checks -/

/-- Two byte intervals share no byte (00_scope.md R16, 60_exceptions.md R116). -/
def Span.Apart (I J : Span) : Prop := ∀ a, ¬ (I.holds a = true ∧ J.holds a = true)

/-- An operand is aligned and lies in LMEM (20_memory.md R49, R50). -/
def Surface.Placed (S : Surface) (s : State) : Prop :=
  (S.fmt = .u16 → S.base % 2 = 0) ∧ S.base + S.len ≤ s.params.lmemSize

/-- A destination does not touch the frame set being presented (60_exceptions.md R117). -/
def State.NotPresented (s : State) (D : Surface) : Prop :=
  s.seq.run = true → D.span.Apart s.activeSet

/-- The host has written no byte of LMEM during the present run. More than a claim has to assume
(20_memory.md R60: "A claim must therefore assume the host touches no byte of a running run"): no command is
`Disturbed` then. -/
def State.Undisturbed (s : State) : Prop := s.race.tainted = false ∧ s.race.hostWrites = []

/-- The surfaces a command writes (41_tone.md R89, R90, 42_compositor.md R95, 43_bitplane_dither.md
R99-R101), in the order of its operands. -/
def destinationsOf (i : Instr) (s : State) : List Surface :=
  match i with
  | .halt | .nop | .lutld _ _ _ _ => []
  | .lut _ _ w h dst => [⟨dst, w, h, .u16⟩]
  | .inv t _ w h dst => [⟨dst, w, h, t⟩]
  | .compose t _ _ _ dst => [⟨dst, s.cfg.canvasW.toNat, s.cfg.canvasH.toNat, t⟩]
  | .decomp _ _ w h dstb dstr => [⟨dstb, w, h, .u8⟩, ⟨dstr, w, h, .u8⟩]
  | .dith1 _ _ w h dst _ => [⟨dst, w, h, .u8⟩]
  | .dithn _ _ w h dst => [⟨dst, w, s.cfg.frames.toNat * h, .u8⟩]

/-- The surface a command reads. -/
def sourcesOf (i : Instr) : List Surface :=
  match i with
  | .halt | .nop => []
  | .lutld t src w h | .lut t src w h _ | .inv t src w h _ | .compose t src w h _
  | .decomp t src w h _ _ | .dith1 t src w h _ _ | .dithn t src w h _ => [⟨src, w, h, t⟩]

/-- What the command i writes is unspecified (20_memory.md R60): the host has written, during the run, a
byte that a command of the run read or wrote, or one that i is to read or write. Host writes elsewhere do
not matter; the claims about stored values assume the negation. -/
def State.Disturbed (s : State) (i : Instr) : Prop :=
  s.race.tainted = true ∨
    ∃ I ∈ s.race.hostWrites, ∃ S ∈ sourcesOf i ++ destinationsOf i s, ¬ S.span.Apart I

/-! ## What a command leaves alone -/

/-- From s to t only CP has advanced by 32, and only LMEM and the model's own record of the run and of
the free values may differ: every register, flag, LUT RAM and the sequencer are as before. -/
def State.OnlyMemoryChanged (s t : State) : Prop :=
  t = { s with cp := s.cp + 32#32, lmem := t.lmem, race := t.race, freeCount := t.freeCount }

/-- Outside the interval every byte of LMEM reads as before. -/
def State.SameOutside (s t : State) (I : Span) : Prop :=
  ∀ a, I.holds a = false → t.readByte a = s.readByte a

/-- Every byte of LMEM reads as before. -/
def State.SameMemory (s t : State) : Prop := ∀ a, t.readByte a = s.readByte a

/-- The operand faults of a command `run` with source S and destination D, in the order of
60_exceptions.md R118: alignment then range of the source, of the destination, overlap, frame in use. -/
structure ReportsOperandFaults (run : State → Host.Outcome State Fault Refusal) (S D : Surface)
    (s : State) : Prop where
  srcOdd : S.fmt = .u16 → S.base % 2 = 1 →
    run s = .next (s.takeFault ⟨.a3, 1, 0, BitVec.ofNat 32 S.base⟩)
  srcRange : (S.fmt = .u16 → S.base % 2 = 0) → s.params.lmemSize < S.base + S.len →
    run s = .next (s.takeFault ⟨.a4, 1, 0, BitVec.ofNat 32 S.base⟩)
  dstOdd : S.Placed s → D.fmt = .u16 → D.base % 2 = 1 →
    run s = .next (s.takeFault ⟨.a3, 2, 0, BitVec.ofNat 32 D.base⟩)
  dstRange : S.Placed s → (D.fmt = .u16 → D.base % 2 = 0) → s.params.lmemSize < D.base + D.len →
    run s = .next (s.takeFault ⟨.a4, 2, 0, BitVec.ofNat 32 D.base⟩)
  overlap : S.Placed s → D.Placed s → ¬ S.span.Apart D.span →
    run s = .next (s.takeFault ⟨.o1, 1, 2, BitVec.ofNat 32 S.base⟩)
  inUse : S.Placed s → D.Placed s → S.span.Apart D.span → ¬ s.NotPresented D →
    run s = .next (s.takeFault ⟨.f1, 2, 4, BitVec.ofNat 32 D.base⟩)

/-! ## The legal states -/

/-- The sequencer while it runs (44_sequencer.md R105, R108): a frame set of N ≥ 1 frames of at least one
sample that lies in LMEM, the presented frame one of them, the elapsed time below the interval, and
the passes not yet complete. -/
structure State.Playing (s : State) : Prop where
  frames : 0 < s.seq.n.toNat
  width : 0 < s.seq.w.toNat
  height : 0 < s.seq.h.toNat
  inLmem : s.seqCfg.base.toNat + s.seq.n.toNat * s.seq.w.toNat * s.seq.h.toNat ≤ s.params.lmemSize
  index : s.seq.index.toNat < s.seq.n.toNat
  elapsed : s.seq.elapsed.toNat < s.seq.interval.toNat
  presAddr : s.seq.presAddr.toNat =
    s.seqCfg.base.toNat + s.seq.index.toNat * s.seq.w.toNat * s.seq.h.toNat
  passes : s.seqCfg.passes.toNat ≠ 0 → s.seq.shown.toNat < s.seq.n.toNat * s.seqCfg.passes.toNat

/-- The invariant of every step: the parameters are legal (00_scope.md R7), memory is canonical and
inside LMEM (20_memory.md R46), an abort is pending only in a run (10_state.md R20), the fault record
is clear during a run (40_control.md R77) and holds only codes the block raises (60_exceptions.md
R112), a run that has ended touched every byte a host access raced for (20_memory.md R60), SEQ_ERR is one
of its codes (44_sequencer.md R106), and a running sequencer plays. -/
structure State.Inv (s : State) : Prop where
  params : s.params.wf
  canonical : Memory.wf s.lmem
  inLmem : ∀ c ∈ s.lmem, c.1 < s.params.lmemSize
  abort : s.abortPend = true → s.ceBusy = true
  record : s.ceBusy = true → s.err = ErrRecord.clear
  code : s.err.code.toNat = 0 ∨ 3 ≤ s.err.code.toNat ∧ s.err.code.toNat ≤ 9
  awaited : s.ceBusy = false → s.race.awaited = []
  seqErr : s.seq.err.toNat ≤ 3
  playing : s.seq.run = true → s.Playing

/-! ## Several steps -/

/-- The state after n ticks with nothing else in between. -/
def State.afterTicks (s : State) (n : Nat) : State := State.seqTick^[n] s

/-- The register block of the map: a host address the block answers, for a register (10_state.md R21). -/
def State.regAddr (s : State) (r : Reg) : Nat := s.params.regBase + r.offset

end Sys2Proof.Machine
end

