-- ==== Sys2Proof/Certificates/Slice0/Obligations.lean ====
section
/-! DEFINITION. The statements for the provers, from the numbered rules of spec/. -/

open Sys2Proof Sys2Proof.Machine

/-! ## Encoding -/

/-- 30_encoding.md R66-R72, R74: every well-formed command survives encoding and decoding, with every
operand at every value its field admits. -/
def Obligations.DecodeAfterEncodeGivesTheCommand : Prop :=
  ∀ i : Instr, i.WellFormed → decode (encode i) = .ok i

/-- 30_encoding.md R71, R72: what the decoder accepts is well formed and has exactly the fetched words:
each command has one encoding, and no bit is ignored. -/
def Obligations.EncodeAfterDecodeGivesTheWords : Prop :=
  ∀ (W : CmdWords) (i : Instr), decode W = .ok i → i.WellFormed ∧ encode i = W

/-- 20_memory.md R47, 30_encoding.md R66: the eight words laid out little-endian read back as the eight
words. -/
def Obligations.CommandBytesGiveBackTheWords : Prop :=
  ∀ W : CmdWords, CmdWords.ofBytes W.byte = W

/-- 30_encoding.md R72: the decoder rejects by name, in the order I1, I2, I3 (first offending word), every
rejection is taken as an IllegalCommand fault, and everything else runs. -/
def Obligations.DecoderReportsTheFirstViolation : Prop :=
  ∀ (W : CmdWords) (s : State),
    (W.w0.extractLsb' 0 8 ∉ ([0x01, 0x02, 0x10, 0x11, 0x12, 0x20, 0x30, 0x31, 0x32] : List Byte) →
      decodeExec W s = .next (s.takeFault ⟨.i1, 0, 0, 0⟩)) ∧
    ∀ o : Opcode, W.w0.extractLsb' 0 8 = o.byte →
      (W.w0 &&& o.mask ≠ o.pattern → decodeExec W s = .next (s.takeFault ⟨.i2, 0, 0, 0⟩)) ∧
      (W.w0 &&& o.mask = o.pattern →
        (∀ k ∈ o.reservedWords, W.word k ≠ 0 → (∀ j ∈ o.reservedWords, j < k → W.word j = 0) →
          decodeExec W s = .next (s.takeFault ⟨.i3, BitVec.ofNat 8 k, 0, 0⟩)) ∧
        ((∀ k ∈ o.reservedWords, W.word k = 0) → decodeExec W s = exec (o.instr W) s))

/-- 30_encoding.md R71: no word matches two rows of the opcode table. -/
def Obligations.OpcodeRowsNeverOverlap : Prop :=
  ∀ (o p : Opcode) (w : Word), w &&& o.mask = o.pattern → w &&& p.mask = p.pattern → o = p

/-- 30_encoding.md R71 and the encodings of 95_test_vectors.md L3-1 and L3-2: words written out from the
spec decode to the commands they stand for. -/
def Obligations.SpecWordsDecodeToTheirCommands : Prop :=
  decode ⟨0x00000001, 0, 0, 0, 0, 0, 0, 0⟩ = .ok .halt ∧
  decode ⟨0x00000002, 0, 0, 0, 0, 0, 0, 0⟩ = .ok .nop ∧
  decode ⟨0x00000110, 0x00001000, 0x01000100, 0, 0, 0, 0, 0⟩ = .ok (.lutld .u16 0x1000 256 256) ∧
  decode ⟨0x00000111, 0x00040000, 0x00020002, 0x00040010, 0, 0, 0, 0⟩ =
    .ok (.lut .u16 0x40000 2 2 0x40010) ∧
  decode ⟨0x00000112, 0x00040010, 0x00020002, 0x00040020, 0, 0, 0, 0⟩ =
    .ok (.inv .u16 0x40010 2 2 0x40020) ∧
  decode ⟨0x00000120, 0x00001000, 0x00010002, 0x00001100, 0, 0, 0, 0⟩ =
    .ok (.compose .u16 0x1000 2 1 0x1100) ∧
  decode ⟨0x00000130, 0x00001100, 0x00020004, 0x00001200, 0x00001210, 0, 0, 0⟩ =
    .ok (.decomp .u16 0x1100 4 2 0x1200 0x1210) ∧
  decode ⟨0x00000132, 0x00001100, 0x00020004, 0x00001300, 0, 0, 0, 0⟩ =
    .ok (.dithn .u16 0x1100 4 2 0x1300) ∧
  decode ⟨0x00020131, 0x00001100, 0x00020004, 0x00001400, 0, 0, 0, 0⟩ =
    .ok (.dith1 .u16 0x1100 4 2 0x1400 2)

/-! ## The command engine -/

/-- 40_control.md R79: when the words at CP decode to a well-formed command and no abort is pending, a
step of the busy engine is that command, on the state in which the model has noted that the run read
the command's bytes (log entry 7); the engine's step comes when it is scheduled, or when nothing is (the
model's choice, log entry 2). `settled` is the model's own check at the end of a run (20_memory.md R60, log
entry 7): it stops a run's last step when a byte that a host access was said to race for was never
touched, and it changes nothing else. -/
def Obligations.StepRunsTheDecodedCommand : Prop :=
  (∀ (s : State) (i : Instr) (rest : List Event),
    s.ceBusy = true → s.abortPend = false → s.fetchCheck = none → i.WellFormed →
    decode s.fetchWords = .ok i →
      (s.race.awaited = [] →
        (s.schedule = [] → step s = exec i (s.touch [s.cmdSpan])) ∧
        (s.schedule = .ceStep :: rest →
          step s = exec i ({ s with schedule := rest }.touch [s.cmdSpan]))) ∧
      (s.schedule = [] → step s = settled (exec i (s.touch [s.cmdSpan]))) ∧
      (s.schedule = .ceStep :: rest →
        step s = settled (exec i ({ s with schedule := rest }.touch [s.cmdSpan])))) ∧
  ∀ t : State,
    (t.ceBusy = true ∨ t.race.awaited = [] → settled (.next t) = .next t) ∧
    (t.ceBusy = false → t.race.awaited ≠ [] → settled (.next t) = .refused .raceNeverHappened)

/-- 60_exceptions.md R124, 20_memory.md R59: the pending steps of the agents happen one at a time, in
the order given (that the order stands in the state as data is the model's choice, log entry 2), each the
step of its agent: a register access, a memory access, the engine's step (40_control.md R79), a tick
(44_sequencer.md R108), a display read (R110), the reset (70_reset_and_hazards.md R131). With none pending
the engine steps, and an idle block stays as it is (60_exceptions.md R130). -/
def Obligations.AgentsStepOneAtATime : Prop :=
  ∀ (s : State) (n : Width) (a y x : Nat) (v : Word) (races : List Nat) (rest : List Event),
    (s.schedule = .regRead n a :: rest → step s = hostRegRead n a { s with schedule := rest }) ∧
    (s.schedule = .regWrite n a v :: rest → step s = hostRegWrite n a v { s with schedule := rest }) ∧
    (s.schedule = .memRead n a races :: rest →
      step s = hostMemRead n a races { s with schedule := rest }) ∧
    (s.schedule = .memWrite n a v races :: rest →
      step s = hostMemWrite n a v races { s with schedule := rest }) ∧
    (s.schedule = .ceStep :: rest → step s = ceStep { s with schedule := rest }) ∧
    (s.schedule = .tick :: rest → step s = .next (State.seqTick { s with schedule := rest })) ∧
    (s.schedule = .displayRead y x :: rest → step s = displayRead y x { s with schedule := rest }) ∧
    (s.schedule = .resetInput :: rest →
      step s = .next (State.afterReset s.params s.freeCount rest s.record)) ∧
    (s.schedule = [] → step s = ceStep s) ∧
    (s.schedule = [] → s.ceBusy = false → step s = .next s) ∧
    ∀ e, s.schedule = e :: rest → step s = agentStep e { s with schedule := rest }

/-- 40_control.md R80: the fetch checks A1 then A2, and the words fetched. What the model itself notes of
the run (`race`, log entry 7) is left open, and `settled` is its own check at the end of a run
(log entry 7), which changes nothing when no byte is awaited. -/
def Obligations.FetchChecksThenReadsEightWords : Prop :=
  ∀ s : State, s.ceBusy = true → s.abortPend = false →
    (s.cp.toNat % 4 ≠ 0 →
      ceStep s = settled (.next (s.takeFault ⟨.a1, 0, 0, s.cp⟩)) ∧
      (s.race.awaited = [] → ceStep s = .next (s.takeFault ⟨.a1, 0, 0, s.cp⟩))) ∧
    (s.cp.toNat % 4 = 0 → s.params.lmemSize < s.cp.toNat + 32 →
      ceStep s = settled (.next (s.takeFault ⟨.a2, 0, 0, s.cp⟩)) ∧
      (s.race.awaited = [] → ceStep s = .next (s.takeFault ⟨.a2, 0, 0, s.cp⟩))) ∧
    (s.cp.toNat % 4 = 0 → s.cp.toNat + 32 ≤ s.params.lmemSize →
      (∃ r, ceStep s = settled (decodeExec s.fetchWords { s with race := r })) ∧
      ∀ k < 8, (s.fetchWords.word k).toNat = s.memRead (s.cp.toNat + 4 * k) 4)

/-- 60_exceptions.md R119: the record of a fault, and what it leaves alone. -/
def Obligations.FaultEntryWritesTheRecordAndEndsTheRun : Prop :=
  ∀ (s : State) (r : Raise),
    s.takeFault r =
      { s with
        err := ⟨r.why.code, r.why.sub, r.opa, r.opb, r.addr, s.cp⟩
        ceBusy := false, abortPend := false, irqStatus := s.irqStatus ||| 2#8 } ∧
    (s.takeFault r).readReg .errCode = r.why.code.setWidth 32 ∧
    (s.takeFault r).readReg .errInfo = 0#8 ++ r.opb ++ r.opa ++ r.why.sub ∧
    (s.takeFault r).readReg .errAddr = r.addr ∧
    (s.takeFault r).readReg .errCp = s.cp ∧
    (s.takeFault r).readReg .cp = s.cp

/-- 60_exceptions.md R112, R113: the codes and sub-codes. -/
def Obligations.ViolationsHaveTheirCodes : Prop :=
  [Violation.v1, .v2, .v3, .v4, .v5, .v6, .v7, .g1, .g2, .p1, .p2, .i1, .i2, .i3, .a1, .a2, .a3, .a4,
    .o1, .f1].map (fun v => (v.code.toNat, v.sub.toNat)) =
    [(3, 1), (3, 2), (3, 3), (3, 4), (3, 5), (3, 6), (3, 7), (4, 1), (4, 2), (5, 1), (5, 2), (6, 1),
      (6, 2), (6, 3), (7, 1), (7, 2), (7, 3), (7, 4), (8, 1), (9, 1)]

/-- 40_control.md R77: a write of 1 to CTRL.START, accepted when idle, ignored and reported when busy.
What the model itself notes of the run (`race`, log entry 7) is left open. -/
def Obligations.StartBeginsARunOnlyWhenIdle : Prop :=
  ∀ s : State,
    (s.ceBusy = false → s.writeReg .ctrl 1 =
      { s with
        ceBusy := true, abortPend := false, cp := s.cfg.clBase, err := ⟨0, 0, 0, 0, 0, 0⟩
        race := (s.writeReg .ctrl 1).race }) ∧
    (s.ceBusy = true → s.writeReg .ctrl 1 = { s with irqStatus := s.irqStatus ||| 8#8 })

/-- 10_state.md R25, 40_control.md R78: ABORT, and both bits of CTRL in one write. -/
def Obligations.AbortAndStartInOneWrite : Prop :=
  ∀ (s : State) (v : Word),
    (v.getLsbD 0 = false → v.getLsbD 1 = false → s.writeReg .ctrl v = s) ∧
    (v.getLsbD 0 = true → v.getLsbD 1 = false → s.writeReg .ctrl v = s.writeReg .ctrl 1) ∧
    (v.getLsbD 0 = false → v.getLsbD 1 = true →
      s.writeReg .ctrl v = if s.ceBusy = true then { s with abortPend := true } else s) ∧
    (v.getLsbD 0 = true → v.getLsbD 1 = true →
      s.writeReg .ctrl v =
        if s.ceBusy = true then { s with abortPend := true, irqStatus := s.irqStatus ||| 8#8 }
        else s.writeReg .ctrl 1) ∧
    s.readReg .ctrl = 0

/-- 40_control.md R83: a pending abort is taken at the command boundary, before any fetch. `settled` is the
model's check at the end of a run (`StepRunsTheDecodedCommand`). -/
def Obligations.AbortIsTakenAtTheBoundary : Prop :=
  ∀ (s t : State), s.ceBusy = true → s.abortPend = true →
    t = { s with ceBusy := false, abortPend := false, irqStatus := s.irqStatus ||| 4#8 } →
      ceStep s = settled (.next t) ∧ (s.race.awaited = [] → ceStep s = .next t)

/-- 40_control.md R82: CP advances by 32 modulo 2^32 after a command other than HALT that does not fault,
and no command changes it otherwise; from 2^32 - 32 it becomes 0, where the fetch faults with A2 on an LMEM below
2^32 bytes. `settled` is the model's own check at the end of a run (log entry 7): it changes nothing when no
byte is awaited. -/
def Obligations.CommandPointerAdvancesBy32 : Prop :=
  (∀ (i : Instr) (s : State), ∃ t, exec i s = .next t ∧
    ((i = .halt ∨ ∃ r, t = s.takeFault r) → t.cp = s.cp) ∧
    (¬ (i = .halt ∨ ∃ r, t = s.takeFault r) → t.cp = s.cp + 32#32)) ∧
  (0xFFFFFFE0#32 + 32#32 = 0#32) ∧
  (∀ s : State, s.ceBusy = true → s.abortPend = false → s.cp = 0xFFFFFFE0#32 →
    s.params.lmemSize < 4294967296 →
      ceStep s = settled (.next (s.takeFault ⟨.a2, 0, 0, s.cp⟩)) ∧
      (s.race.awaited = [] → ceStep s = .next (s.takeFault ⟨.a2, 0, 0, s.cp⟩)))

/-- 40_control.md R81, 60_exceptions.md R119: every command always ends in a next state; it takes one
fault and has written nothing, or it is a HALT, or it keeps the run, the record, the interrupt bits,
every host-written register and the sequencer as they were. The engine's step answers a next state too,
but for the model's own check at the end of a run (20_memory.md R60, log entry 7). -/
def Obligations.CommandsAreAllOrNothing : Prop :=
  (∀ (i : Instr) (s : State), ∃ t, exec i s = .next t ∧
    ((∃ r, t = s.takeFault r) ∨ (i = .halt ∧ t = s.haltTake) ∨
      (i ≠ .halt ∧
        t = { s with
          cp := s.cp + 32#32, lmem := t.lmem, lutRam := t.lutRam, lutValid := t.lutValid
          race := t.race, freeCount := t.freeCount }))) ∧
  ∀ s : State, (∃ t, ceStep s = .next t) ∨
    (s.race.awaited ≠ [] ∧ ceStep s = .refused .raceNeverHappened)

/-- 40_control.md R85: a step that ends a run, and is no reset, is the engine's and ends it in exactly one
of three ways, which exclude each other: done by a HALT, by the fault of a failed check, aborted at a
boundary, each with its cause, its interrupt bit and its CP and fault record. -/
def Obligations.ARunEndsInOneOfThreeWays : Prop :=
  ∀ s t : State, s.Inv → step s = .next t → s.ceBusy = true → t.ceBusy = false →
    s.schedule.head? ≠ some .resetInput →
      t.cp = s.cp ∧ t.abortPend = false ∧ (s.schedule = [] ∨ s.schedule.head? = some .ceStep) ∧
      ((s.abortPend = false ∧ (s.fetchCheck = none ∧ decode s.fetchWords = .ok .halt) ∧
          t.irqStatus = s.irqStatus ||| Irq.mask .ceDone ∧ t.err = ErrRecord.clear) ∨
       (s.abortPend = false ∧ ¬ (s.fetchCheck = none ∧ decode s.fetchWords = .ok .halt) ∧
          t.irqStatus = s.irqStatus ||| Irq.mask .ceErr ∧ t.err.cp = s.cp ∧ t.err.code ≠ 0 ∧
          ∃ r : Raise, t.err = r.toRecord s.cp) ∨
       (s.abortPend = true ∧
          t.irqStatus = s.irqStatus ||| Irq.mask .ceAbort ∧ t.err = ErrRecord.clear))

/-! ## Control commands -/

/-- 40_control.md R86: HALT ends the run, sets CE_DONE and leaves CP; nothing else changes. -/
def Obligations.HaltEndsTheRun : Prop :=
  ∀ s : State, exec .halt s =
    .next { s with ceBusy := false, abortPend := false, irqStatus := s.irqStatus ||| 1#8 }

/-- 40_control.md R87: NOP advances CP; nothing else changes. -/
def Obligations.NopOnlyAdvances : Prop :=
  ∀ s : State, exec .nop s = .next { s with cp := s.cp + 32#32 }

/-! ## Tone unit -/

/-- 41_tone.md R88: a LUTLD whose grid meets its checks loads entry r*256 + c with sample (r, c) and sets
lut_valid; LMEM and every other register are unchanged. The entries are stated unless the host has disturbed
the command: written, during the run, a byte that the run or this command reads or writes (20_memory.md R60). -/
def Obligations.LutldLoadsTheGrid : Prop :=
  ∀ (src : Nat) (s : State), (⟨src, 256, 256, .u16⟩ : Surface).Placed s →
    ∃ t, exec (.lutld .u16 src 256 256) s = .next t ∧
      t = { s with
        cp := s.cp + 32#32, lutValid := true, lutRam := t.lutRam, race := t.race
        freeCount := t.freeCount } ∧
      (¬ s.Disturbed (.lutld .u16 src 256 256) → ∀ r c, r < 256 → c < 256 →
        (t.lutRead (BitVec.ofNat 16 (r * 256 + c))).toNat =
          (⟨src, 256, 256, .u16⟩ : Surface).pix s r c)

/-- 41_tone.md R88, 60_exceptions.md R118: the faults of LUTLD in their order, none of which touches the
table or lut_valid. -/
def Obligations.LutldRefusesBadGrids : Prop :=
  ∀ (t : Fmt) (src w h : Nat) (s : State),
    (w ≠ 256 → exec (.lutld t src w h) s = .next (s.takeFault ⟨.v1, 1, 0, 0⟩)) ∧
    (w = 256 → h ≠ 256 → exec (.lutld t src w h) s = .next (s.takeFault ⟨.v2, 1, 0, 0⟩)) ∧
    (w = 256 → h = 256 → t = .u8 →
      exec (.lutld t src w h) s = .next (s.takeFault ⟨.v3, 1, 0, 0⟩)) ∧
    (w = 256 → h = 256 → t = .u16 → src % 2 = 1 →
      exec (.lutld t src w h) s = .next (s.takeFault ⟨.a3, 1, 0, BitVec.ofNat 32 src⟩)) ∧
    (w = 256 → h = 256 → t = .u16 → src % 2 = 0 → s.params.lmemSize < src + 131072 →
      exec (.lutld t src w h) s = .next (s.takeFault ⟨.a4, 1, 0, BitVec.ofNat 32 src⟩))

/-- 41_tone.md R89: LUT writes the table entry of every sample, as U16, and nothing else. The samples
are stated unless the host has disturbed the command (20_memory.md R60). -/
def Obligations.LutLooksUpEverySample : Prop :=
  ∀ (t : Fmt) (src w h dst : Nat) (s : State), w ≠ 0 → h ≠ 0 → s.lutValid = true →
    (⟨src, w, h, t⟩ : Surface).Placed s → (⟨dst, w, h, .u16⟩ : Surface).Placed s →
    (⟨src, w, h, t⟩ : Surface).span.Apart (⟨dst, w, h, .u16⟩ : Surface).span →
    s.NotPresented ⟨dst, w, h, .u16⟩ →
      ∃ u, exec (.lut t src w h dst) s = .next u ∧ s.OnlyMemoryChanged u ∧
        s.SameOutside u (⟨dst, w, h, .u16⟩ : Surface).span ∧
        (¬ s.Disturbed (.lut t src w h dst) → ∀ y x, y < h → x < w →
          (⟨dst, w, h, .u16⟩ : Surface).pix u y x =
            (s.lutRead (BitVec.ofNat 16 ((⟨src, w, h, t⟩ : Surface).pix s y x))).toNat)

/-- 41_tone.md R90: INV writes MAX minus every sample, in the source's format, and nothing else.
The samples are stated unless the host has disturbed the command (20_memory.md R60). -/
def Obligations.InvInvertsEverySample : Prop :=
  ∀ (t : Fmt) (src w h dst : Nat) (s : State), w ≠ 0 → h ≠ 0 →
    (⟨src, w, h, t⟩ : Surface).Placed s → (⟨dst, w, h, t⟩ : Surface).Placed s →
    (⟨src, w, h, t⟩ : Surface).span.Apart (⟨dst, w, h, t⟩ : Surface).span →
    s.NotPresented ⟨dst, w, h, t⟩ →
      ∃ u, exec (.inv t src w h dst) s = .next u ∧ s.OnlyMemoryChanged u ∧
        s.SameOutside u (⟨dst, w, h, t⟩ : Surface).span ∧
        (¬ s.Disturbed (.inv t src w h dst) → ∀ y x, y < h → x < w →
          (⟨dst, w, h, t⟩ : Surface).pix u y x =
            (match t with | .u8 => 255 | .u16 => 65535) - (⟨src, w, h, t⟩ : Surface).pix s y x)

/-- 41_tone.md R91 item 2: INV twice through a second buffer gives back the source, for both formats,
unless the host has disturbed one of the two commands (20_memory.md R60). -/
def Obligations.InvTwiceGivesBackTheSource : Prop :=
  ∀ (t : Fmt) (src w h mid dst : Nat) (s u v : State),
    ¬ s.Disturbed (.inv t src w h mid) → ¬ s.Disturbed (.inv t mid w h dst) →
    exec (.inv t src w h mid) s = .next u → u.ceBusy = true →
    exec (.inv t mid w h dst) u = .next v → v.ceBusy = true →
      ∀ y x, y < h → x < w →
        (⟨dst, w, h, t⟩ : Surface).pix v y x = (⟨src, w, h, t⟩ : Surface).pix s y x

/-- 41_tone.md R91 item 3, 30_encoding.md R75: the pseudo-instruction TONE gives 65535 - T[v] for every
source sample v, unless the host has disturbed one of its two commands (20_memory.md R60). -/
def Obligations.ToneGivesTheInvertedTable : Prop :=
  ∀ (t : Fmt) (src w h tmp dst : Nat) (s u v : State),
    ¬ s.Disturbed (.lut t src w h tmp) → ¬ s.Disturbed (.inv .u16 tmp w h dst) →
    exec (.lut t src w h tmp) s = .next u → u.ceBusy = true →
    exec (.inv .u16 tmp w h dst) u = .next v → v.ceBusy = true →
      ∀ y x, y < h → x < w →
        (⟨dst, w, h, .u16⟩ : Surface).pix v y x =
          65535 - (s.lutRead (BitVec.ofNat 16 ((⟨src, w, h, t⟩ : Surface).pix s y x))).toNat

/-! ## Canvas compositor -/

/-- 42_compositor.md R92: the scaled size is each dimension times the exact scale min(CW/w, CH/h),
floored, at least 1; a source that fits keeps its size; the result fits a canvas without a zero
dimension, never grows, and exceeds a canvas with one. -/
def Obligations.ScaledSizeIsTheFlooredUniformScale : Prop :=
  ∀ w h cw ch : Nat, 1 ≤ w → 1 ≤ h →
    (w ≤ cw → h ≤ ch → scaleDims w h cw ch = (w, h)) ∧
    (¬ (w ≤ cw ∧ h ≤ ch) →
      scaleDims w h cw ch =
        (max 1 ⌊(w : ℚ) * min ((cw : ℚ) / w) ((ch : ℚ) / h)⌋₊,
         max 1 ⌊(h : ℚ) * min ((cw : ℚ) / w) ((ch : ℚ) / h)⌋₊)) ∧
    (1 ≤ cw → 1 ≤ ch → (scaleDims w h cw ch).1 ≤ cw ∧ (scaleDims w h cw ch).2 ≤ ch) ∧
    (scaleDims w h cw ch).1 ≤ w ∧ (scaleDims w h cw ch).2 ≤ h ∧
    (cw = 0 ∨ ch = 0 → cw < (scaleDims w h cw ch).1 ∨ ch < (scaleDims w h cw ch).2)

/-- 42_compositor.md R93: the box filter is the area-weighted mean rounded half up: a weight is the
overlap of a source cell with the output cell; the weights of an output sample sum to the source's
width, height and area; the mean lies between the least and the
greatest source sample it covers, so it is a sample of the format; and at the source's own size the
filter is the identity. That this filter is fixed, and no parameter as 93_implementation_defined.md RS1 would
allow, is the model's choice (log entry 13). -/
def Obligations.BoxFilterIsTheAreaMean : Prop :=
  ∀ (w h sw sh i j : Nat) (pix : Nat → Nat → Nat), 1 ≤ w → 1 ≤ h → i < sh → j < sw →
    (∀ u : Nat, (boxWeight w sw j u : ℤ) =
      max 0 (min (((u : ℤ) + 1) * sw) (((j : ℤ) + 1) * w) - max ((u : ℤ) * sw) ((j : ℤ) * w))) ∧
    (∀ v : Nat, (boxWeight h sh i v : ℤ) =
      max 0 (min (((v : ℤ) + 1) * sh) (((i : ℤ) + 1) * h) - max ((v : ℤ) * sh) ((i : ℤ) * h))) ∧
    (∑ u ∈ Finset.range w, boxWeight w sw j u = w) ∧
    (∑ v ∈ Finset.range h, boxWeight h sh i v = h) ∧
    (∑ v ∈ Finset.range h, ∑ u ∈ Finset.range w, boxWeight w sw j u * boxWeight h sh i v = w * h) ∧
    box w h pix sw sh i j =
      ⌊(∑ v ∈ Finset.range h, ∑ u ∈ Finset.range w,
          ((boxWeight w sw j u * boxWeight h sh i v * pix v u : Nat) : ℚ)) / (w * h : Nat) + 1 / 2⌋₊ ∧
    (∀ lo hi, (∀ v u, v < h → u < w → 0 < boxWeight w sw j u * boxWeight h sh i v →
        lo ≤ pix v u ∧ pix v u ≤ hi) →
      lo ≤ box w h pix sw sh i j ∧ box w h pix sw sh i j ≤ hi) ∧
    (sw = w → sh = h → box w h pix sw sh i j = pix i j)

/-- 42_compositor.md R94, R96 item 5: centring leaves at most one more sample on the trailing side, and
the origin placement starts at 0; the window always fits. -/
def Obligations.PlacementCentresWithTrailingBias : Prop :=
  ∀ (canvas size : Nat) (s : State), size ≤ canvas →
    ((s.readReg .config).getLsbD 0 = true → placement s.cfg.center canvas size = (canvas - size) / 2) ∧
    ((s.readReg .config).getLsbD 0 = false → placement s.cfg.center canvas size = 0) ∧
    placement true canvas size ≤ canvas - size - placement true canvas size ∧
    canvas - size - placement true canvas size ≤ placement true canvas size + 1 ∧
    ∀ b, placement b canvas size + size ≤ canvas

/-- 42_compositor.md R95, R96 items 1 to 3: COMPOSE writes exactly the canvas: the scaled source in the
window, the border value everywhere else, and nothing else. The samples are stated unless the host has
disturbed the command (20_memory.md R60). -/
def Obligations.ComposeFillsAndBlits : Prop :=
  ∀ (t : Fmt) (src w h dst : Nat) (s : State) (S C : Surface) (fill sw sh yo xo : Nat),
    S = ⟨src, w, h, t⟩ → C = ⟨dst, s.cfg.canvasW.toNat, s.cfg.canvasH.toNat, t⟩ →
    fill = (if s.cfg.config.getLsbD 1 then maxOf t else s.cfg.fill.toNat) →
    (sw, sh) = scaleDims w h C.w C.h →
    yo = placement (s.cfg.config.getLsbD 0) C.h sh → xo = placement (s.cfg.config.getLsbD 0) C.w sw →
    w ≠ 0 → h ≠ 0 → fill ≤ maxOf t → sw ≤ C.w → sh ≤ C.h →
    S.Placed s → C.Placed s → S.span.Apart C.span → s.NotPresented C →
      ∃ u, exec (.compose t src w h dst) s = .next u ∧ s.OnlyMemoryChanged u ∧
        s.SameOutside u C.span ∧
        (¬ s.Disturbed (.compose t src w h dst) →
          (∀ i j, i < sh → j < sw → C.pix u (yo + i) (xo + j) =
            if (sw, sh) = (w, h) then S.pix s i j else box w h (S.pix s) sw sh i j) ∧
          (∀ y x, y < C.h → x < C.w → ¬ (yo ≤ y ∧ y < yo + sh ∧ xo ≤ x ∧ x < xo + sw) →
            C.pix u y x = fill))

/-- 42_compositor.md R95, R96 item 4, 60_exceptions.md R118: an 8-bit canvas with a larger FILL faults,
then a canvas the scaled source does not fit; the latter only with a zero canvas dimension. -/
def Obligations.ComposeReportsFillAndRange : Prop :=
  ∀ (t : Fmt) (src w h dst : Nat) (s : State), w ≠ 0 → h ≠ 0 →
    (t = .u8 → s.cfg.config.getLsbD 1 = false → 255 < s.cfg.fill.toNat →
      exec (.compose t src w h dst) s = .next (s.takeFault ⟨.v7, 0, 0, 0⟩)) ∧
    (¬ (t = .u8 ∧ s.cfg.config.getLsbD 1 = false ∧ 255 < s.cfg.fill.toNat) → s.cfg.canvasW.toNat = 0 →
      exec (.compose t src w h dst) s = .next (s.takeFault ⟨.g1, 1, 0, 0⟩)) ∧
    (¬ (t = .u8 ∧ s.cfg.config.getLsbD 1 = false ∧ 255 < s.cfg.fill.toNat) → s.cfg.canvasW.toNat ≠ 0 →
      s.cfg.canvasH.toNat = 0 →
      exec (.compose t src w h dst) s = .next (s.takeFault ⟨.g2, 1, 0, 0⟩)) ∧
    (s.cfg.canvasW.toNat ≠ 0 → s.cfg.canvasH.toNat ≠ 0 → ∀ opa opb addr,
      exec (.compose t src w h dst) s ≠ .next (s.takeFault ⟨.g1, opa, opb, addr⟩) ∧
      exec (.compose t src w h dst) s ≠ .next (s.takeFault ⟨.g2, opa, opb, addr⟩))

/-! ## Bit planes and dither -/

/-- 43_bitplane_dither.md R97, R98: base and remainder are bits 15:8 and 7:4 of the sample, bits 3:0 are
dropped; a frame's value is the base or one more, clipped at 255, and goes up iff r > f, or r >= f when
CMP_GE is set. -/
def Obligations.FrameValueOfTheTwelveHighBits : Prop :=
  ∀ (v f : Nat) (s : State), v < 65536 →
    value12 v = v / 16 ∧ value12 v ≤ 4095 ∧ baseOf v = value12 v / 16 ∧ baseOf v = v / 256 ∧
    baseOf v ≤ 255 ∧ remainderOf v = value12 v % 16 ∧ remainderOf v ≤ 15 ∧
    (∀ low, low < 16 → value12 (v / 16 * 16 + low) = value12 v ∧
      baseOf (v / 16 * 16 + low) = baseOf v ∧ remainderOf (v / 16 * 16 + low) = remainderOf v) ∧
    ((s.readReg .config).getLsbD 2 = false →
      frameVal s.cfg.cmpGe v f = min 255 (baseOf v + if remainderOf v > f then 1 else 0)) ∧
    ((s.readReg .config).getLsbD 2 = true →
      frameVal s.cfg.cmpGe v f = min 255 (baseOf v + if remainderOf v ≥ f then 1 else 0)) ∧
    ∀ ge, (frameVal ge v f = baseOf v ∨ frameVal ge v f = baseOf v + 1) ∧
      (baseOf v = 255 → frameVal ge v f = 255)

/-- 43_bitplane_dither.md R103: over N frames a sample goes up exactly min(r, N) times (min(r+1, N) with
CMP_GE), always in the first frames; sixteen frames average to value12 / 16 exactly; at base 255 every
frame is 255; and bits 3:0 of the sample affect no frame. -/
def Obligations.DitherAveragesToTheTwelveBitLevel : Prop :=
  ∀ v n : Nat, v < 65536 →
    (baseOf v ≤ 254 →
      (List.range n).countP (fun f => baseOf v < frameVal false v f) = min (remainderOf v) n ∧
      ((List.range n).map fun f => frameVal false v f - baseOf v).sum = min (remainderOf v) n ∧
      (16 ≤ n → min (remainderOf v) n = remainderOf v) ∧
      ((List.range 16).map (frameVal false v)).sum = value12 v ∧
      (List.range n).countP (fun f => baseOf v < frameVal true v f) = min (remainderOf v + 1) n ∧
      ((List.range 16).map (frameVal true v)).sum = value12 v + 1 ∧
      (∀ f, (baseOf v < frameVal false v f ↔ f < remainderOf v) ∧
        (baseOf v < frameVal true v f ↔ f < remainderOf v + 1))) ∧
    (baseOf v = 255 → ∀ ge f, frameVal ge v f = 255 ∧
      (List.range n).countP (fun g => baseOf v < frameVal ge v g) = 0) ∧
    (∀ ge f low, low < 16 → frameVal ge (v / 16 * 16 + low) f = frameVal ge v f)

/-- 43_bitplane_dither.md R99: DECOMP writes the two planes, one byte per sample, and nothing else.
The samples are stated unless the host has disturbed the command (20_memory.md R60). -/
def Obligations.DecompWritesBothPlanes : Prop :=
  ∀ (src w h dstb dstr : Nat) (s : State) (S B M : Surface),
    S = ⟨src, w, h, .u16⟩ → B = ⟨dstb, w, h, .u8⟩ → M = ⟨dstr, w, h, .u8⟩ → w ≠ 0 → h ≠ 0 →
    S.Placed s → B.Placed s → M.Placed s →
    S.span.Apart B.span → S.span.Apart M.span → B.span.Apart M.span →
    s.NotPresented B → s.NotPresented M →
      ∃ u, exec (.decomp .u16 src w h dstb dstr) s = .next u ∧ s.OnlyMemoryChanged u ∧
        (∀ a, B.span.holds a = false → M.span.holds a = false → u.readByte a = s.readByte a) ∧
        (¬ s.Disturbed (.decomp .u16 src w h dstb dstr) → ∀ y x, y < h → x < w →
          B.pix u y x = baseOf (S.pix s y x) ∧ M.pix u y x = remainderOf (S.pix s y x))

/-- 43_bitplane_dither.md R100: DITH1 writes frame f, and nothing else. The samples are stated unless
the host has disturbed the command (20_memory.md R60). -/
def Obligations.Dith1WritesOneFrame : Prop :=
  ∀ (src w h dst f : Nat) (s : State) (S D : Surface),
    S = ⟨src, w, h, .u16⟩ → D = ⟨dst, w, h, .u8⟩ → w ≠ 0 → h ≠ 0 → f < s.cfg.frames.toNat →
    S.Placed s → D.Placed s → S.span.Apart D.span → s.NotPresented D →
      ∃ u, exec (.dith1 .u16 src w h dst f) s = .next u ∧ s.OnlyMemoryChanged u ∧
        s.SameOutside u D.span ∧
        (¬ s.Disturbed (.dith1 .u16 src w h dst f) → ∀ y x, y < h → x < w →
          D.pix u y x = frameVal (s.cfg.config.getLsbD 2) (S.pix s y x) f)

/-- 43_bitplane_dither.md R101: DITHN writes the N frames back to back, frame k at F + k*w*h, and nothing
else. The samples are stated unless the host has disturbed the command (20_memory.md R60). -/
def Obligations.DithnWritesTheFrameSet : Prop :=
  ∀ (src w h dst : Nat) (s : State) (S FS : Surface),
    S = ⟨src, w, h, .u16⟩ → FS = ⟨dst, w, s.cfg.frames.toNat * h, .u8⟩ → w ≠ 0 → h ≠ 0 →
    s.cfg.frames.toNat ≠ 0 →
    S.Placed s → FS.Placed s → S.span.Apart FS.span → s.NotPresented FS →
      ∃ u, exec (.dithn .u16 src w h dst) s = .next u ∧ s.OnlyMemoryChanged u ∧
        s.SameOutside u FS.span ∧
        (¬ s.Disturbed (.dithn .u16 src w h dst) → ∀ k y x, k < s.cfg.frames.toNat → y < h → x < w →
          (⟨dst + k * w * h, w, h, .u8⟩ : Surface).pix u y x =
            frameVal (s.cfg.config.getLsbD 2) (S.pix s y x) k)

/-- 43_bitplane_dither.md R100: where both run, DITH1 with index f gives the same bytes as frame f of a
DITHN with the same N, unless the host has disturbed one of the two (20_memory.md R60). -/
def Obligations.Dith1EqualsAFrameOfDithn : Prop :=
  ∀ (src w h dst one f : Nat) (s u v : State),
    ¬ s.Disturbed (.dithn .u16 src w h dst) → ¬ s.Disturbed (.dith1 .u16 src w h one f) →
    f < s.cfg.frames.toNat →
    exec (.dithn .u16 src w h dst) s = .next u → u.ceBusy = true →
    exec (.dith1 .u16 src w h one f) s = .next v → v.ceBusy = true →
      ∀ k, k < w * h → v.readByte (one + k) = u.readByte (dst + f * w * h + k)

/-- 43_bitplane_dither.md R99-R101, 60_exceptions.md R118: the format, the frame count and the frame
index are checked in that order, before any address. -/
def Obligations.DitherCommandsReportFormatAndFrames : Prop :=
  ∀ (t : Fmt) (src w h dst dstr f : Nat) (s : State), w ≠ 0 → h ≠ 0 →
    (t = .u8 →
      exec (.decomp t src w h dst dstr) s = .next (s.takeFault ⟨.v4, 1, 0, 0⟩) ∧
      exec (.dith1 t src w h dst f) s = .next (s.takeFault ⟨.v4, 1, 0, 0⟩) ∧
      exec (.dithn t src w h dst) s = .next (s.takeFault ⟨.v4, 1, 0, 0⟩)) ∧
    (t = .u16 → s.cfg.frames.toNat = 0 →
      exec (.dith1 t src w h dst f) s = .next (s.takeFault ⟨.v5, 0, 0, 0⟩) ∧
      exec (.dithn t src w h dst) s = .next (s.takeFault ⟨.v5, 0, 0, 0⟩)) ∧
    (t = .u16 → s.cfg.frames.toNat ≠ 0 → s.cfg.frames.toNat ≤ f →
      exec (.dith1 t src w h dst f) s = .next (s.takeFault ⟨.v6, 0, 0, 0⟩))

/-- 60_exceptions.md R114: every command that takes a source, except LUTLD, faults with P1 on a null source
before any other check of its own; LUTLD reports V1 or V2. A LUT without a loaded table faults with P2
next, before any address check (41_tone.md R89, 60_exceptions.md R118). -/
def Obligations.NullSourceFaultsFirstThenMissingTable : Prop :=
  ∀ (t : Fmt) (src w h dst dstr f : Nat) (s : State),
    (w = 0 ∨ h = 0 →
      (∀ i ∈ [Instr.lut t src w h dst, .inv t src w h dst, .compose t src w h dst,
          .decomp t src w h dst dstr, .dith1 t src w h dst f, .dithn t src w h dst],
        exec i s = .next (s.takeFault ⟨.p1, 1, 0, 0⟩)) ∧
      (exec (.lutld t src w h) s = .next (s.takeFault ⟨.v1, 1, 0, 0⟩) ∨
        exec (.lutld t src w h) s = .next (s.takeFault ⟨.v2, 1, 0, 0⟩))) ∧
    (w ≠ 0 → h ≠ 0 → s.lutValid = false →
      exec (.lut t src w h dst) s = .next (s.takeFault ⟨.p2, 0, 0, 0⟩))

/-! ## The checks the commands share -/

/-- 60_exceptions.md R115-R118: the commands of one source and one destination report alignment, range,
overlap and frame in use in the one order, once their own earlier checks hold. -/
def Obligations.OperandFaultsInOrder : Prop :=
  ∀ (t : Fmt) (src w h dst f : Nat) (s : State), w ≠ 0 → h ≠ 0 →
    (s.lutValid = true →
      ReportsOperandFaults (exec (.lut t src w h dst)) ⟨src, w, h, t⟩ ⟨dst, w, h, .u16⟩ s) ∧
    ReportsOperandFaults (exec (.inv t src w h dst)) ⟨src, w, h, t⟩ ⟨dst, w, h, t⟩ s ∧
    (s.cfg.canvasW.toNat ≠ 0 → s.cfg.canvasH.toNat ≠ 0 →
      (s.cfg.config.getLsbD 1 = true ∨ s.cfg.fill.toNat ≤ maxOf t) →
      ReportsOperandFaults (exec (.compose t src w h dst)) ⟨src, w, h, t⟩
        ⟨dst, s.cfg.canvasW.toNat, s.cfg.canvasH.toNat, t⟩ s) ∧
    (f < s.cfg.frames.toNat →
      ReportsOperandFaults (exec (.dith1 .u16 src w h dst f)) ⟨src, w, h, .u16⟩ ⟨dst, w, h, .u8⟩ s) ∧
    (s.cfg.frames.toNat ≠ 0 →
      ReportsOperandFaults (exec (.dithn .u16 src w h dst)) ⟨src, w, h, .u16⟩
        ⟨dst, w, s.cfg.frames.toNat * h, .u8⟩ s)

/-- 60_exceptions.md R115-R118, 43_bitplane_dither.md R99: DECOMP's three operands: alignment and range of
the source, then the range of each plane, then the overlaps of the pairs (1,2), (1,3), (2,3), then frame in
use for each plane. -/
def Obligations.DecompReportsThreeOperands : Prop :=
  ∀ (src w h dstb dstr : Nat) (s : State) (S B M : Surface),
    S = ⟨src, w, h, .u16⟩ → B = ⟨dstb, w, h, .u8⟩ → M = ⟨dstr, w, h, .u8⟩ → w ≠ 0 → h ≠ 0 →
    (src % 2 = 1 → exec (.decomp .u16 src w h dstb dstr) s =
      .next (s.takeFault ⟨.a3, 1, 0, BitVec.ofNat 32 src⟩)) ∧
    (src % 2 = 0 → s.params.lmemSize < src + w * h * 2 → exec (.decomp .u16 src w h dstb dstr) s =
      .next (s.takeFault ⟨.a4, 1, 0, BitVec.ofNat 32 src⟩)) ∧
    (S.Placed s → s.params.lmemSize < dstb + w * h → exec (.decomp .u16 src w h dstb dstr) s =
      .next (s.takeFault ⟨.a4, 2, 0, BitVec.ofNat 32 dstb⟩)) ∧
    (S.Placed s → B.Placed s → s.params.lmemSize < dstr + w * h →
      exec (.decomp .u16 src w h dstb dstr) s =
        .next (s.takeFault ⟨.a4, 3, 0, BitVec.ofNat 32 dstr⟩)) ∧
    (S.Placed s → B.Placed s → M.Placed s →
      (¬ S.span.Apart B.span → exec (.decomp .u16 src w h dstb dstr) s =
        .next (s.takeFault ⟨.o1, 1, 2, BitVec.ofNat 32 src⟩)) ∧
      (S.span.Apart B.span → ¬ S.span.Apart M.span → exec (.decomp .u16 src w h dstb dstr) s =
        .next (s.takeFault ⟨.o1, 1, 3, BitVec.ofNat 32 src⟩)) ∧
      (S.span.Apart B.span → S.span.Apart M.span → ¬ B.span.Apart M.span →
        exec (.decomp .u16 src w h dstb dstr) s =
          .next (s.takeFault ⟨.o1, 2, 3, BitVec.ofNat 32 dstb⟩)) ∧
      (S.span.Apart B.span → S.span.Apart M.span → B.span.Apart M.span → ¬ s.NotPresented B →
        exec (.decomp .u16 src w h dstb dstr) s =
          .next (s.takeFault ⟨.f1, 2, 4, BitVec.ofNat 32 dstb⟩)) ∧
      (S.span.Apart B.span → S.span.Apart M.span → B.span.Apart M.span → s.NotPresented B →
        ¬ s.NotPresented M → exec (.decomp .u16 src w h dstb dstr) s =
          .next (s.takeFault ⟨.f1, 3, 4, BitVec.ofNat 32 dstr⟩)))

/-- 20_memory.md R61, 60_exceptions.md R117: while the sequencer runs, no command changes a byte of the
frame set it presents, whatever the command does. -/
def Obligations.NoCommandWritesThePresentedFrames : Prop :=
  ∀ (i : Instr) (s t : State), s.seq.run = true → exec i s = .next t →
    ∀ a, s.activeSet.holds a = true → t.readByte a = s.readByte a

/-! ## The frame sequencer -/

/-- 44_sequencer.md R104: the interval is the least number of ticks that is at least 1, at least the
minimum, and makes N frames last at least D. -/
def Obligations.IntervalIsTheLeastThatCoversTheExposure : Prop :=
  ∀ d n m : Nat, 1 ≤ n →
    seqIntervalOf d n m = max (max ((d + n - 1) / n) m) 1 ∧
    (d + n - 1) / n = ⌈(d : ℚ) / n⌉₊ ∧
    1 ≤ seqIntervalOf d n m ∧ m ≤ seqIntervalOf d n m ∧ d ≤ n * seqIntervalOf d n m ∧
    ∀ i, 1 ≤ i → m ≤ i → d ≤ n * i → seqIntervalOf d n m ≤ i

/-- 44_sequencer.md R105: an accepted START latches the configuration and presents frame 0, whether or
not the sequencer was running. That it also empties `stale` is the model's choice (log entry 9). -/
def Obligations.SequencerStartPresentsFrameZero : Prop :=
  ∀ s : State, s.cfg.frames.toNat ≠ 0 → s.cfg.canvasW.toNat ≠ 0 → s.cfg.canvasH.toNat ≠ 0 →
    s.seqCfg.base.toNat + s.cfg.frames.toNat * s.cfg.canvasW.toNat * s.cfg.canvasH.toNat
      ≤ s.params.lmemSize →
    s.writeReg .seqCtrl 1 =
      { s with
        seq :=
          { run := true, index := 0, elapsed := 0, shown := 0, err := 0
            interval := (s.writeReg .seqCtrl 1).seq.interval
            n := s.cfg.frames, w := s.cfg.canvasW, h := s.cfg.canvasH, presAddr := s.seqCfg.base }
        stale := [] } ∧
    (s.writeReg .seqCtrl 1).seq.interval.toNat =
      max (max ((s.seqCfg.duration.toNat + s.cfg.frames.toNat - 1) / s.cfg.frames.toNat)
        s.seqCfg.minInterval.toNat) 1

/-- 44_sequencer.md R105, R106: the refusals of a START in the order of the table; a refused START leaves
the sequencer stopped, with its latched values, and sets the SEQ_ERR interrupt. -/
def Obligations.SequencerStartRefusalsInOrder : Prop :=
  ∀ (s : State) (e : Nat),
    (s.cfg.frames.toNat = 0 ∧ e = 1) ∨
    (s.cfg.frames.toNat ≠ 0 ∧ (s.cfg.canvasW.toNat = 0 ∨ s.cfg.canvasH.toNat = 0) ∧ e = 2) ∨
    (s.cfg.frames.toNat ≠ 0 ∧ s.cfg.canvasW.toNat ≠ 0 ∧ s.cfg.canvasH.toNat ≠ 0 ∧
      s.params.lmemSize <
        s.seqCfg.base.toNat + s.cfg.frames.toNat * s.cfg.canvasW.toNat * s.cfg.canvasH.toNat ∧ e = 3) →
    s.writeReg .seqCtrl 1 =
      { s with
        seq := { s.seq with run := false, err := BitVec.ofNat 8 e }
        irqStatus := s.irqStatus ||| 64#8 }

/-- 44_sequencer.md R107, 10_state.md R38: STOP only stops; with both bits set STOP comes first, then
START; a write of neither does nothing. -/
def Obligations.SequencerStopKeepsTheLatchedValues : Prop :=
  ∀ (s : State) (v : Word),
    (v.getLsbD 0 = false → v.getLsbD 1 = true →
      s.writeReg .seqCtrl v = { s with seq := { s.seq with run := false } } ∧
      (s.writeReg .seqCtrl v).presPort.valid = false ∧
      (s.seq.run = false → s.writeReg .seqCtrl v = s)) ∧
    (v.getLsbD 0 = false → v.getLsbD 1 = false → s.writeReg .seqCtrl v = s) ∧
    (v.getLsbD 0 = true → v.getLsbD 1 = true → s.writeReg .seqCtrl v = s.writeReg .seqCtrl 1) ∧
    s.readReg .seqCtrl = 0

/-- 44_sequencer.md R108: what one tick does, in a legal state. -/
def Obligations.TickAdvancesThePlayback : Prop :=
  ∀ s : State, s.Inv →
    (s.seq.run = false → s.seqTick = s) ∧
    (s.seq.run = true → s.seq.elapsed.toNat + 1 < s.seq.interval.toNat →
      s.seqTick = { s with seq := { s.seq with elapsed := s.seq.elapsed + 1#32 } }) ∧
    (s.seq.run = true → s.seq.interval.toNat ≤ s.seq.elapsed.toNat + 1 →
      (s.seqCfg.passes.toNat ≠ 0 →
        s.seq.shown.toNat + 1 = s.seq.n.toNat * s.seqCfg.passes.toNat →
        s.seqTick =
          { s with
            seq := { s.seq with elapsed := 0, shown := s.seq.shown + 1#32, run := false }
            irqStatus := s.irqStatus ||| 32#8 }) ∧
      (s.seqCfg.passes.toNat = 0 ∨
        s.seq.shown.toNat + 1 ≠ s.seq.n.toNat * s.seqCfg.passes.toNat →
        ∃ k : Nat, k = (s.seq.index.toNat + 1) % s.seq.n.toNat ∧
        s.seqTick =
          { s with
            seq := { s.seq with
              elapsed := 0, shown := s.seq.shown + 1#32, index := BitVec.ofNat 8 k
              presAddr := s.seqCfg.base + BitVec.ofNat 32 (k * s.seq.w.toNat * s.seq.h.toNat) }
            irqStatus := s.irqStatus ||| 16#8 }))

/-- 44_sequencer.md R109: one tick advances the presentation by at most one frame: the presented frame stays, with
its index and its address, or one more frame is shown and either the next one modulo N is presented or the
last one of the last pass has ended and the sequencer stops. Nothing but a tick, a write to SEQ_CTRL or the
reset moves the sequencer. -/
def Obligations.OnlyTicksAdvanceTheSequence : Prop :=
  (∀ s u : State, s.Inv → u = s.seqTick →
    (u.seq.shown = s.seq.shown ∧ u.seq.run = s.seq.run ∧ u.seq.index = s.seq.index ∧
      u.seq.presAddr = s.seq.presAddr) ∨
    (u.seq.shown = s.seq.shown + 1#32 ∧ s.seq.run = true ∧
      ((u.seq.run = false ∧ u.seq.index = s.seq.index ∧ u.seq.presAddr = s.seq.presAddr) ∨
       (u.seq.run = true ∧ u.seq.index.toNat = (s.seq.index.toNat + 1) % s.seq.n.toNat ∧
        u.seq.presAddr.toNat =
          s.seqCfg.base.toNat + u.seq.index.toNat * s.seq.w.toNat * s.seq.h.toNat)))) ∧
  (∀ s t : State, step s = .next t → s.seq ≠ t.seq →
    s.schedule.head? = some .tick ∨ s.schedule.head? = some .resetInput ∨
    ∃ v, s.schedule.head? = some (.regWrite .b4 (s.regAddr .seqCtrl) v))

/-- 44_sequencer.md R111: the playback from an accepted START with P ≥ 1 passes: at tick m the presented
frame is number m / I modulo N, for exactly I ticks each, in circular order; it stops at tick N*P*I with
SEQ_DONE; and N*I covers D, exactly iff N divides D and D/N is at least the minimum and 1. -/
def Obligations.PlaybackFollowsTheTimeline : Prop :=
  ∀ s u : State, s.params.wf → s.seqRefusal = 0 → s.seqCfg.passes.toNat ≠ 0 → u = s.seqStart →
    (∀ m, m < u.seq.n.toNat * s.seqCfg.passes.toNat * u.seq.interval.toNat →
      (u.afterTicks m).seq.run = true ∧
      (u.afterTicks m).seq.index.toNat = m / u.seq.interval.toNat % u.seq.n.toNat ∧
      (u.afterTicks m).seq.elapsed.toNat = m % u.seq.interval.toNat ∧
      (u.afterTicks m).seq.shown.toNat = m / u.seq.interval.toNat ∧
      (u.afterTicks m).seq.presAddr.toNat = s.seqCfg.base.toNat +
        m / u.seq.interval.toNat % u.seq.n.toNat * u.seq.w.toNat * u.seq.h.toNat) ∧
    (∀ m, u.seq.n.toNat * s.seqCfg.passes.toNat * u.seq.interval.toNat ≤ m →
      (u.afterTicks m).seq.run = false ∧ (u.afterTicks m).irqPending .seqDone = true ∧
      (u.afterTicks m).seq.index.toNat = u.seq.n.toNat - 1 ∧
      (u.afterTicks m).seq.shown.toNat = u.seq.n.toNat * s.seqCfg.passes.toNat) ∧
    s.seqCfg.duration.toNat ≤ u.seq.n.toNat * u.seq.interval.toNat ∧
    (u.seq.n.toNat * u.seq.interval.toNat = s.seqCfg.duration.toNat ↔
      u.seq.n.toNat ∣ s.seqCfg.duration.toNat ∧
      max s.seqCfg.minInterval.toNat 1 ≤ s.seqCfg.duration.toNat / u.seq.n.toNat)

/-! ## Registers, interrupts, ports -/

/-- 10_state.md R23: what a host write to a locked register does, and that it takes effect at once when
the register is not locked: the exact next state, and what the register then reads (R27, R32-R35, R39). -/
def Obligations.LockedWritesAreDroppedAndReported : Prop :=
  ∀ (s : State) (v : Word),
    (s.ceBusy = true → ∀ r ∈ [Reg.clBase, .config, .fill, .canvasW, .canvasH, .frames],
      s.writeReg r v = { s with irqStatus := s.irqStatus ||| 128#8 }) ∧
    (s.seq.run = true → ∀ r ∈ [Reg.seqBase, .seqDuration, .seqMinInterval, .seqPasses],
      s.writeReg r v = { s with irqStatus := s.irqStatus ||| 128#8 }) ∧
    (s.ceBusy = false →
      s.writeReg .clBase v = { s with cfg := { s.cfg with clBase := v } } ∧
      s.writeReg .config v = { s with cfg := { s.cfg with config := v.setWidth 3 } } ∧
      s.writeReg .fill v = { s with cfg := { s.cfg with fill := v.setWidth 16 } } ∧
      s.writeReg .canvasW v = { s with cfg := { s.cfg with canvasW := v.setWidth 16 } } ∧
      s.writeReg .canvasH v = { s with cfg := { s.cfg with canvasH := v.setWidth 16 } } ∧
      s.writeReg .frames v = { s with cfg := { s.cfg with frames := v.setWidth 8 } }) ∧
    (s.ceBusy = false →
      (s.writeReg .clBase v).readReg .clBase = v ∧ (s.writeReg .config v).readReg .config = v &&& 0x7 ∧
      ∀ r ∈ [Reg.fill, .canvasW, .canvasH], (s.writeReg r v).readReg r = v &&& 0xFFFF) ∧
    (s.ceBusy = false → (s.writeReg .frames v).readReg .frames = v &&& 0xFF) ∧
    (s.seq.run = false →
      s.writeReg .seqBase v = { s with seqCfg := { s.seqCfg with base := v } } ∧
      s.writeReg .seqDuration v = { s with seqCfg := { s.seqCfg with duration := v } } ∧
      s.writeReg .seqMinInterval v = { s with seqCfg := { s.seqCfg with minInterval := v } } ∧
      s.writeReg .seqPasses v = { s with seqCfg := { s.seqCfg with passes := v.setWidth 16 } }) ∧
    (s.seq.run = false →
      (∀ r ∈ [Reg.seqBase, .seqDuration, .seqMinInterval], (s.writeReg r v).readReg r = v) ∧
      (s.writeReg .seqPasses v).readReg .seqPasses = v &&& 0xFFFF)

/-- 10_state.md R23, 70_reset_and_hazards.md R136: no step but the reset changes the configuration of a
busy run, or the sequencer's while it runs; nothing ever changes the platform's parameters. -/
def Obligations.ConfigurationIsFixedWhileInUse : Prop :=
  ∀ s t : State, step s = .next t → t.params = s.params ∧
    (s.schedule.head? ≠ some .resetInput →
      (s.ceBusy = true → t.cfg = s.cfg) ∧ (s.seq.run = true → t.seqCfg = s.seqCfg))

/-- 10_state.md R22: the register port: narrow and misaligned accesses are refused, and so is an access
outside the block's 256 bytes, which is another device's (the model's choice, log entry 11); a read answers
and changes nothing of the block; reserved offsets read 0 and ignore writes; read-only registers ignore
writes; write-only registers read 0; STATUS (R26) shows the four flags, the SEQ status registers (R40) and
the presentation port (R45) show the sequencer. -/
def Obligations.RegisterPortFollowsTheAccessRules : Prop :=
  ∀ (s : State) (n : Width) (v : Word),
    (∀ a, a < s.params.regBase ∨ s.params.regBase + 256 ≤ a →
      hostRegRead n a s = .refused .outsideRegisterBlock ∧
      hostRegWrite n a v s = .refused .outsideRegisterBlock) ∧
    ∀ o, o < 256 →
      (n ≠ .b4 ∨ o % 4 ≠ 0 →
        hostRegRead n (s.params.regBase + o) s = .refused .narrowRegisterAccess ∧
        hostRegWrite n (s.params.regBase + o) v s = .refused .narrowRegisterAccess) ∧
      (o % 4 = 0 →
        hostRegRead .b4 (s.params.regBase + o) s =
          .next { s with record := .register o (s.readOffset o) :: s.record } ∧
        hostRegWrite .b4 (s.params.regBase + o) v s = .next (s.writeOffset o v)) ∧
      (0x74 ≤ o → s.readOffset o = 0 ∧ s.writeOffset o v = s) ∧
      (o ∈ [0x00, 0x08, 0x10, 0x14, 0x18, 0x1C, 0x20, 0x54, 0x58, 0x5C, 0x60, 0x64, 0x68, 0x6C, 0x70] →
        s.writeOffset o v = s) ∧
      (o = 0x04 ∨ o = 0x40 → s.readOffset o = 0) ∧
      (∀ r : Reg, s.readOffset r.offset = s.readReg r ∧ s.writeOffset r.offset v = s.writeReg r v) ∧
      (s.readOffset 0x00 = 0x544C4C01 ∧ s.readOffset 0x10 = s.cp) ∧
      (∀ i, (s.readOffset 0x08).getLsbD i =
        match i with
        | 0 => s.ceBusy
        | 1 => s.lutValid
        | 2 => s.seq.run
        | 3 => s.abortPend
        | _ => false) ∧
      (s.readOffset 0x54 = s.seq.interval ∧ s.readOffset 0x58 = s.seq.index.setWidth 32 ∧
        s.readOffset 0x5C = s.seq.elapsed ∧ s.readOffset 0x60 = s.seq.shown ∧
        s.readOffset 0x64 = s.seq.n.setWidth 32 ∧ (s.readOffset 0x68).extractLsb' 0 16 = s.seq.w ∧
        (s.readOffset 0x68).extractLsb' 16 16 = s.seq.h ∧ s.readOffset 0x6C = s.seq.err.setWidth 32 ∧
        s.readOffset 0x70 = s.seq.presAddr) ∧
      s.presPort = ⟨s.seq.run, s.seq.presAddr, s.seq.index, s.seq.w, s.seq.h⟩

/-- 60_exceptions.md R123, 10_state.md R36, R37: the interrupt line is the OR over the eight sources of
pending and enabled; an event sets its own bit only; a write of IRQ_STATUS clears the bits written 1, a
write of IRQ_ENABLE stores v[7:0], and neither changes anything else; and a pending bit stays in every step
but the reset and a host write of 1 to that bit of IRQ_STATUS. -/
def Obligations.InterruptLineOfStickyBits : Prop :=
  ∀ (s t : State) (v : Word) (q p : Irq),
    (s.irqLine = true ↔ ∃ r : Irq, s.irqPending r = true ∧ s.irqEnable.getLsbD r.bit = true) ∧
    ((s.writeReg .irqStatus v).irqPending q = (s.irqPending q && !v.getLsbD q.bit)) ∧
    s.writeReg .irqStatus v = { s with irqStatus := s.irqStatus &&& ~~~v.setWidth 8 } ∧
    s.writeReg .irqEnable v = { s with irqEnable := v.setWidth 8 } ∧
    s.readReg .irqStatus = s.irqStatus.setWidth 32 ∧ s.readReg .irqEnable = s.irqEnable.setWidth 32 ∧
    (s.setIrq q).irqPending q = true ∧
    (p ≠ q → (s.setIrq q).irqPending p = s.irqPending p) ∧
    (s.irqPending q = true → s.setIrq q = s) ∧
    (step s = .next t → s.irqPending q = true → s.schedule.head? ≠ some .resetInput →
      (∀ w, s.schedule.head? = some (.regWrite .b4 (s.regAddr .irqStatus) w) → w.getLsbD q.bit = false) →
        t.irqPending q = true)

/-- 20_memory.md R47, R49, R52, R55, 93_implementation_defined.md PL2, PL3: the host memory port refuses
misaligned accesses and accesses outside LMEM. A write stores its bytes, little-endian, and leaves every
other byte, every register, LUT RAM and the sequencer alone; what it overwrites in the frame set being
presented, and only that, joins the bytes the display may still read (20_memory.md R61, 93 U6; how the model
keeps them is its own choice, log entry 9). With the engine idle the host reads back what it wrote, and a
read changes nothing. -/
def Obligations.HostMemoryPortReadsBackWrites : Prop :=
  ∀ (s : State) (n : Width) (addr : Nat) (v : Word) (races : List Nat),
    (addr % n.bytes ≠ 0 →
      hostMemRead n addr races s = .refused .misalignedHostAccess ∧
      hostMemWrite n addr v races s = .refused .misalignedHostAccess) ∧
    (addr % n.bytes = 0 → s.params.lmemSize < addr + n.bytes →
      hostMemRead n addr races s = .refused .hostAccessOutsideLmem ∧
      hostMemWrite n addr v races s = .refused .hostAccessOutsideLmem) ∧
    (addr % n.bytes = 0 → addr + n.bytes ≤ s.params.lmemSize →
      ∃ t, hostMemWrite n addr v races s = .next t ∧
        t = { s with lmem := t.lmem, race := t.race, stale := t.stale } ∧
        (∀ k < n.bytes, t.readByte (addr + k) = leByte v.toNat k) ∧
        s.SameOutside t ⟨addr, n.bytes⟩ ∧
        (∀ c, c ∈ t.stale ↔ c ∈ s.stale ∨
          (s.seq.run = true ∧ (⟨addr, n.bytes⟩ : Span).holds c.1 = true ∧
            s.activeSet.holds c.1 = true ∧ c.2 = s.readByte c.1)) ∧
        (s.ceBusy = false → t.race = s.race ∧
          hostMemRead n addr races t =
            .next { t with
              freeCount := t.freeCount + 1
              record := .memory n addr (BitVec.ofNat 32 (v.toNat % 256 ^ n.bytes)) :: s.record }))

/-- 20_memory.md R60, 93_implementation_defined.md U5: during a run, a host write that touches no byte the
run reads or writes behaves as when idle; one that does makes every byte the run writes from then on
unspecified: the run is disturbed until it ends, and a disturbed command that completes leaves a free byte
at every address of its destinations, a disturbed LUTLD a free table. A command is disturbed too when the
host has written, during the run, a byte that is first read or written by this command. No other write
disturbs: touching bytes disturbs an undisturbed run only if the host wrote one of them, a command that is
not disturbed leaves the run so, and a step that disturbs a run is such a host write or the engine's. How the
model records the race is its own choice (log entries 7, 8). -/
def Obligations.RacingHostWritesTaintTheRun : Prop :=
  (∀ (s : State) (n : Width) (addr : Nat) (v : Word) (races : List Nat), s.ceBusy = true →
    addr % n.bytes = 0 → addr + n.bytes ≤ s.params.lmemSize →
    ∃ t, hostMemWrite n addr v races s = .next t ∧
      t = { s with lmem := t.lmem, race := t.race, stale := t.stale } ∧
      (∀ k < n.bytes, t.readByte (addr + k) = leByte v.toNat k) ∧
      s.SameOutside t ⟨addr, n.bytes⟩ ∧
      ((∃ k < n.bytes, addr + k ∈ races ∨ ∃ I ∈ s.race.touched, I.holds (addr + k) = true) →
        t.race.tainted = true) ∧
      ((∀ k < n.bytes, addr + k ∉ races ∧ ∀ I ∈ s.race.touched, I.holds (addr + k) = false) →
        t.race.tainted = s.race.tainted ∧
        t.race.hostWrites = ⟨addr, n.bytes⟩ :: s.race.hostWrites)) ∧
  (∀ s t : State, step s = .next t → s.ceBusy = true → s.race.tainted = true → t.ceBusy = true →
    t.race.tainted = true) ∧
  (∀ (s : State) (spans : List Span),
    ((s.touch spans).race.tainted = true ↔
      s.race.tainted = true ∨ ∃ I ∈ s.race.hostWrites, ∃ J ∈ spans, ¬ J.Apart I) ∧
    (s.touch spans).race.hostWrites = s.race.hostWrites) ∧
  (∀ (i : Instr) (s t : State), ¬ s.Disturbed i → s.ceBusy = true → exec i s = .next t →
    t.race.tainted = false ∧ t.race.hostWrites = s.race.hostWrites) ∧
  (∀ s t : State, step s = .next t → s.race.tainted = false → t.race.tainted = true →
    s.ceBusy = true ∧
      ((∃ n a v races, s.schedule.head? = some (.memWrite n a v races)) ∨
       ((s.schedule = [] ∨ s.schedule.head? = some .ceStep) ∧ s.race.hostWrites ≠ []))) ∧
  (∀ (i : Instr) (s t : State), s.Disturbed i → s.ceBusy = true → exec i s = .next t →
    t.ceBusy = true →
      t.race.tainted = true ∧
      (∀ j D, (destinationsOf i s)[j]? = some D → ∀ a, D.span.holds a = true →
        t.readByte a = Config.freeByte (s.freeCount + j) a) ∧
      ∀ f src w h, i = .lutld f src w h → t.lutRam = Config.freeTable s.freeCount)

/-- 20_memory.md R60, 93_implementation_defined.md U4: during a run, a host read answers, byte by byte, an
unspecified value where the run reads or writes the byte and LMEM's byte elsewhere, and changes nothing of
the block. That the access itself says which bytes the run goes on to touch, and that the end of the run
checks it (`awaited`), is the model's own choice (log entry 7). -/
def Obligations.HostReadsDuringARunAreFreeWhereTheyRace : Prop :=
  ∀ (s : State) (n : Width) (addr : Nat) (races : List Nat), s.ceBusy = true →
    addr % n.bytes = 0 → addr + n.bytes ≤ s.params.lmemSize →
    ∃ t v, hostMemRead n addr races s = .next t ∧
      t = { s with
        freeCount := s.freeCount + 1, race := { s.race with awaited := t.race.awaited }
        record := .memory n addr v :: s.record } ∧
      v.toNat < 256 ^ n.bytes ∧
      (∀ k < n.bytes,
        ((addr + k ∈ races ∨ ∃ I ∈ s.race.touched, I.holds (addr + k) = true) →
          leByte v.toNat k = Config.freeByte s.freeCount (addr + k)) ∧
        (addr + k ∉ races → (∀ I ∈ s.race.touched, I.holds (addr + k) = false) →
          leByte v.toNat k = s.readByte (addr + k))) ∧
      (∀ a, a ∈ t.race.awaited ↔ a ∈ s.race.awaited ∨
        (addr ≤ a ∧ a < addr + n.bytes ∧ a ∈ races ∧ ∀ I ∈ s.race.touched, I.holds a = false)) ∧
      ∀ (u : State) (spans : List Span) (a : Nat), a ∈ (u.touch spans).race.awaited ↔
        a ∈ u.race.awaited ∧ ∀ I ∈ spans, I.holds a = false

/-- 44_sequencer.md R110, 93_implementation_defined.md U6: a display read answers a byte of the presented
frame, either the present one or one the host overwrote during the playback, and changes no state of
the block. How the model keeps the overwritten bytes is its own choice (log entry 9). With no frame presented
the display shows DISPLAY_IDLE (93_implementation_defined.md U7), which the model records and nothing more (log
entry 10); a read outside the presented frame is refused (the model's choice, log entry 12). -/
def Obligations.DisplayReadsThePresentedFrame : Prop :=
  ∀ (s : State) (y x : Nat),
    (s.seq.run = true → s.Playing → y < s.seq.h.toNat → x < s.seq.w.toNat →
      ∃ b, displayRead y x s =
          .next { s with freeCount := s.freeCount + 1, record := .display y x b :: s.record } ∧
        (b = s.readByte (s.seq.presAddr.toNat + y * s.seq.w.toNat + x) ∨
          (s.seq.presAddr.toNat + y * s.seq.w.toNat + x, b) ∈ s.stale)) ∧
    (s.seq.run = false →
      displayRead y x s = .next { s with record := .display y x (Config.displayIdle y x) :: s.record }) ∧
    (s.seq.run = true → s.seq.h.toNat ≤ y ∨ s.seq.w.toNat ≤ x →
      displayRead y x s = .refused .displayOutsideFrame)

/-- 70_reset_and_hazards.md R131: whatever the block was doing, the reset input leaves every register at
its reset value, nothing presented and the interrupt line low. -/
def Obligations.ResetInputGivesTheResetValues : Prop :=
  ∀ (s : State) (rest : List Event), s.schedule = .resetInput :: rest →
    ∃ t, step s = .next t ∧ t.params = s.params ∧ t.presPort.valid = false ∧ t.irqLine = false ∧
      Reg.all.map t.readReg =
        [0x544C4C01, 0, 0, 0, 0, 0, 0, 0, 0, 3, 0xFFFF, 0x1E00, 0x10E0, 0x10, 0, 0, 0, 0, 0, 0x7A120, 1,
          0, 0, 0, 0, 0, 0, 0, 0]

/-! ## Invariants of every step -/

/-- 70_reset_and_hazards.md R131: the reset state is legal, on every platform with legal parameters, and
so is `State.reset` (its parameters are the model's choice, log entry 1). -/
def Obligations.ResetStateIsLegal : Prop :=
  (∀ (p : Params) (d : Nat) (pending : List Event) (seen : List Observation), p.wf →
    (State.afterReset p d pending seen).Inv) ∧ State.reset.Inv

/-- 20_memory.md R46, 10_state.md R20, 40_control.md R77, 60_exceptions.md R112, 44_sequencer.md R105,
R106, R108: every step of every agent keeps the legal states legal. -/
def Obligations.EveryStepKeepsTheLegalStates : Prop :=
  ∀ s t : State, s.Inv → step s = .next t → t.Inv

/-- 10_state.md R41, 40_control.md R79: LUT RAM and lut_valid change only in a LUTLD of a busy run, which
sets lut_valid, or in a reset; and no step but the engine's, a host write through the memory port and
the reset changes a byte of LMEM. -/
def Obligations.OnlyTheirAgentsWriteTableAndMemory : Prop :=
  ∀ s t : State, step s = .next t → s.schedule.head? ≠ some .resetInput →
    ((t.lutRam = s.lutRam ∧ t.lutValid = s.lutValid) ∨
      (s.ceBusy = true ∧ t.lutValid = true ∧
        ∃ src, decode s.fetchWords = .ok (.lutld .u16 src 256 256))) ∧
    ((∀ n a v races, s.schedule.head? ≠ some (.memWrite n a v races)) →
      (s.ceBusy = false ∨ (s.schedule ≠ [] ∧ s.schedule.head? ≠ some .ceStep)) → s.SameMemory t)
end

