-- ==== Sys2Proof/Laws/State.lean ====
section
/-! SUPPORT. The small lemmas of State's updates: one per field per update. -/

namespace Sys2Proof.Machine

/-! ### setIrq -/

@[simp] theorem State.setIrq_params (s : State) (q : Irq) : (s.setIrq q).params = s.params := rfl

@[simp] theorem State.setIrq_ceBusy (s : State) (q : Irq) : (s.setIrq q).ceBusy = s.ceBusy := rfl

@[simp] theorem State.setIrq_abortPend (s : State) (q : Irq) : (s.setIrq q).abortPend = s.abortPend := rfl

@[simp] theorem State.setIrq_lutValid (s : State) (q : Irq) : (s.setIrq q).lutValid = s.lutValid := rfl

@[simp] theorem State.setIrq_cp (s : State) (q : Irq) : (s.setIrq q).cp = s.cp := rfl

@[simp] theorem State.setIrq_cfg (s : State) (q : Irq) : (s.setIrq q).cfg = s.cfg := rfl

@[simp] theorem State.setIrq_err (s : State) (q : Irq) : (s.setIrq q).err = s.err := rfl

@[simp] theorem State.setIrq_irqStatus (s : State) (q : Irq) : (s.setIrq q).irqStatus = s.irqStatus ||| q.mask := rfl

@[simp] theorem State.setIrq_irqEnable (s : State) (q : Irq) : (s.setIrq q).irqEnable = s.irqEnable := rfl

@[simp] theorem State.setIrq_seqCfg (s : State) (q : Irq) : (s.setIrq q).seqCfg = s.seqCfg := rfl

@[simp] theorem State.setIrq_seq (s : State) (q : Irq) : (s.setIrq q).seq = s.seq := rfl

@[simp] theorem State.setIrq_lutRam (s : State) (q : Irq) : (s.setIrq q).lutRam = s.lutRam := rfl

@[simp] theorem State.setIrq_lmem (s : State) (q : Irq) : (s.setIrq q).lmem = s.lmem := rfl

@[simp] theorem State.setIrq_lmemEpoch (s : State) (q : Irq) : (s.setIrq q).lmemEpoch = s.lmemEpoch := rfl

@[simp] theorem State.setIrq_freeCount (s : State) (q : Irq) : (s.setIrq q).freeCount = s.freeCount := rfl

@[simp] theorem State.setIrq_race (s : State) (q : Irq) : (s.setIrq q).race = s.race := rfl

@[simp] theorem State.setIrq_stale (s : State) (q : Irq) : (s.setIrq q).stale = s.stale := rfl

@[simp] theorem State.setIrq_schedule (s : State) (q : Irq) : (s.setIrq q).schedule = s.schedule := rfl

@[simp] theorem State.setIrq_record (s : State) (q : Irq) : (s.setIrq q).record = s.record := rfl

/-! ### clearIrq -/

@[simp] theorem State.clearIrq_params (s : State) (v : Byte) : (s.clearIrq v).params = s.params := rfl

@[simp] theorem State.clearIrq_ceBusy (s : State) (v : Byte) : (s.clearIrq v).ceBusy = s.ceBusy := rfl

@[simp] theorem State.clearIrq_abortPend (s : State) (v : Byte) : (s.clearIrq v).abortPend = s.abortPend := rfl

@[simp] theorem State.clearIrq_lutValid (s : State) (v : Byte) : (s.clearIrq v).lutValid = s.lutValid := rfl

@[simp] theorem State.clearIrq_cp (s : State) (v : Byte) : (s.clearIrq v).cp = s.cp := rfl

@[simp] theorem State.clearIrq_cfg (s : State) (v : Byte) : (s.clearIrq v).cfg = s.cfg := rfl

@[simp] theorem State.clearIrq_err (s : State) (v : Byte) : (s.clearIrq v).err = s.err := rfl

@[simp] theorem State.clearIrq_irqStatus (s : State) (v : Byte) :
    (s.clearIrq v).irqStatus = s.irqStatus &&& ~~~v := rfl

@[simp] theorem State.clearIrq_irqEnable (s : State) (v : Byte) : (s.clearIrq v).irqEnable = s.irqEnable := rfl

@[simp] theorem State.clearIrq_seqCfg (s : State) (v : Byte) : (s.clearIrq v).seqCfg = s.seqCfg := rfl

@[simp] theorem State.clearIrq_seq (s : State) (v : Byte) : (s.clearIrq v).seq = s.seq := rfl

@[simp] theorem State.clearIrq_lutRam (s : State) (v : Byte) : (s.clearIrq v).lutRam = s.lutRam := rfl

@[simp] theorem State.clearIrq_lmem (s : State) (v : Byte) : (s.clearIrq v).lmem = s.lmem := rfl

@[simp] theorem State.clearIrq_lmemEpoch (s : State) (v : Byte) : (s.clearIrq v).lmemEpoch = s.lmemEpoch := rfl

@[simp] theorem State.clearIrq_freeCount (s : State) (v : Byte) : (s.clearIrq v).freeCount = s.freeCount := rfl

@[simp] theorem State.clearIrq_race (s : State) (v : Byte) : (s.clearIrq v).race = s.race := rfl

@[simp] theorem State.clearIrq_stale (s : State) (v : Byte) : (s.clearIrq v).stale = s.stale := rfl

@[simp] theorem State.clearIrq_schedule (s : State) (v : Byte) : (s.clearIrq v).schedule = s.schedule := rfl

@[simp] theorem State.clearIrq_record (s : State) (v : Byte) : (s.clearIrq v).record = s.record := rfl

/-! ### putBytes -/

@[simp] theorem State.putBytes_params (s : State) (lo len : Nat) (g : Nat → Byte) :
    (s.putBytes lo len g).params = s.params := rfl

@[simp] theorem State.putBytes_ceBusy (s : State) (lo len : Nat) (g : Nat → Byte) :
    (s.putBytes lo len g).ceBusy = s.ceBusy := rfl

@[simp] theorem State.putBytes_abortPend (s : State) (lo len : Nat) (g : Nat → Byte) :
    (s.putBytes lo len g).abortPend = s.abortPend := rfl

@[simp] theorem State.putBytes_lutValid (s : State) (lo len : Nat) (g : Nat → Byte) :
    (s.putBytes lo len g).lutValid = s.lutValid := rfl

@[simp] theorem State.putBytes_cp (s : State) (lo len : Nat) (g : Nat → Byte) :
    (s.putBytes lo len g).cp = s.cp := rfl

@[simp] theorem State.putBytes_cfg (s : State) (lo len : Nat) (g : Nat → Byte) :
    (s.putBytes lo len g).cfg = s.cfg := rfl

@[simp] theorem State.putBytes_err (s : State) (lo len : Nat) (g : Nat → Byte) :
    (s.putBytes lo len g).err = s.err := rfl

@[simp] theorem State.putBytes_irqStatus (s : State) (lo len : Nat) (g : Nat → Byte) :
    (s.putBytes lo len g).irqStatus = s.irqStatus := rfl

@[simp] theorem State.putBytes_irqEnable (s : State) (lo len : Nat) (g : Nat → Byte) :
    (s.putBytes lo len g).irqEnable = s.irqEnable := rfl

@[simp] theorem State.putBytes_seqCfg (s : State) (lo len : Nat) (g : Nat → Byte) :
    (s.putBytes lo len g).seqCfg = s.seqCfg := rfl

@[simp] theorem State.putBytes_seq (s : State) (lo len : Nat) (g : Nat → Byte) :
    (s.putBytes lo len g).seq = s.seq := rfl

@[simp] theorem State.putBytes_lutRam (s : State) (lo len : Nat) (g : Nat → Byte) :
    (s.putBytes lo len g).lutRam = s.lutRam := rfl

@[simp] theorem State.putBytes_lmem (s : State) (lo len : Nat) (g : Nat → Byte) :
    (s.putBytes lo len g).lmem = splice s.lmem lo len g := rfl

@[simp] theorem State.putBytes_lmemEpoch (s : State) (lo len : Nat) (g : Nat → Byte) :
    (s.putBytes lo len g).lmemEpoch = s.lmemEpoch := rfl

@[simp] theorem State.putBytes_freeCount (s : State) (lo len : Nat) (g : Nat → Byte) :
    (s.putBytes lo len g).freeCount = s.freeCount := rfl

@[simp] theorem State.putBytes_race (s : State) (lo len : Nat) (g : Nat → Byte) :
    (s.putBytes lo len g).race = s.race := rfl

@[simp] theorem State.putBytes_stale (s : State) (lo len : Nat) (g : Nat → Byte) :
    (s.putBytes lo len g).stale = s.stale := rfl

@[simp] theorem State.putBytes_schedule (s : State) (lo len : Nat) (g : Nat → Byte) :
    (s.putBytes lo len g).schedule = s.schedule := rfl

@[simp] theorem State.putBytes_record (s : State) (lo len : Nat) (g : Nat → Byte) :
    (s.putBytes lo len g).record = s.record := rfl

/-! ### advance -/

@[simp] theorem State.advance_params (s : State) : (s.advance).params = s.params := rfl

@[simp] theorem State.advance_ceBusy (s : State) : (s.advance).ceBusy = s.ceBusy := rfl

@[simp] theorem State.advance_abortPend (s : State) : (s.advance).abortPend = s.abortPend := rfl

@[simp] theorem State.advance_lutValid (s : State) : (s.advance).lutValid = s.lutValid := rfl

@[simp] theorem State.advance_cp (s : State) : (s.advance).cp = s.cp + 32#32 := rfl

@[simp] theorem State.advance_cfg (s : State) : (s.advance).cfg = s.cfg := rfl

@[simp] theorem State.advance_err (s : State) : (s.advance).err = s.err := rfl

@[simp] theorem State.advance_irqStatus (s : State) : (s.advance).irqStatus = s.irqStatus := rfl

@[simp] theorem State.advance_irqEnable (s : State) : (s.advance).irqEnable = s.irqEnable := rfl

@[simp] theorem State.advance_seqCfg (s : State) : (s.advance).seqCfg = s.seqCfg := rfl

@[simp] theorem State.advance_seq (s : State) : (s.advance).seq = s.seq := rfl

@[simp] theorem State.advance_lutRam (s : State) : (s.advance).lutRam = s.lutRam := rfl

@[simp] theorem State.advance_lmem (s : State) : (s.advance).lmem = s.lmem := rfl

@[simp] theorem State.advance_lmemEpoch (s : State) : (s.advance).lmemEpoch = s.lmemEpoch := rfl

@[simp] theorem State.advance_freeCount (s : State) : (s.advance).freeCount = s.freeCount := rfl

@[simp] theorem State.advance_race (s : State) : (s.advance).race = s.race := rfl

@[simp] theorem State.advance_stale (s : State) : (s.advance).stale = s.stale := rfl

@[simp] theorem State.advance_schedule (s : State) : (s.advance).schedule = s.schedule := rfl

@[simp] theorem State.advance_record (s : State) : (s.advance).record = s.record := rfl

/-! ### takeFault -/

@[simp] theorem State.takeFault_params (s : State) (r : Raise) : (s.takeFault r).params = s.params := rfl

@[simp] theorem State.takeFault_ceBusy (s : State) (r : Raise) : (s.takeFault r).ceBusy = false := rfl

@[simp] theorem State.takeFault_abortPend (s : State) (r : Raise) : (s.takeFault r).abortPend = false := rfl

@[simp] theorem State.takeFault_lutValid (s : State) (r : Raise) : (s.takeFault r).lutValid = s.lutValid := rfl

@[simp] theorem State.takeFault_cp (s : State) (r : Raise) : (s.takeFault r).cp = s.cp := rfl

@[simp] theorem State.takeFault_cfg (s : State) (r : Raise) : (s.takeFault r).cfg = s.cfg := rfl

@[simp] theorem State.takeFault_err (s : State) (r : Raise) : (s.takeFault r).err = r.toRecord s.cp := rfl

@[simp] theorem State.takeFault_irqStatus (s : State) (r : Raise) :
    (s.takeFault r).irqStatus = s.irqStatus ||| Irq.mask .ceErr := rfl

@[simp] theorem State.takeFault_irqEnable (s : State) (r : Raise) : (s.takeFault r).irqEnable = s.irqEnable := rfl

@[simp] theorem State.takeFault_seqCfg (s : State) (r : Raise) : (s.takeFault r).seqCfg = s.seqCfg := rfl

@[simp] theorem State.takeFault_seq (s : State) (r : Raise) : (s.takeFault r).seq = s.seq := rfl

@[simp] theorem State.takeFault_lutRam (s : State) (r : Raise) : (s.takeFault r).lutRam = s.lutRam := rfl

@[simp] theorem State.takeFault_lmem (s : State) (r : Raise) : (s.takeFault r).lmem = s.lmem := rfl

@[simp] theorem State.takeFault_lmemEpoch (s : State) (r : Raise) : (s.takeFault r).lmemEpoch = s.lmemEpoch := rfl

@[simp] theorem State.takeFault_freeCount (s : State) (r : Raise) : (s.takeFault r).freeCount = s.freeCount := rfl

@[simp] theorem State.takeFault_race (s : State) (r : Raise) : (s.takeFault r).race = s.race := rfl

@[simp] theorem State.takeFault_stale (s : State) (r : Raise) : (s.takeFault r).stale = s.stale := rfl

@[simp] theorem State.takeFault_schedule (s : State) (r : Raise) : (s.takeFault r).schedule = s.schedule := rfl

@[simp] theorem State.takeFault_record (s : State) (r : Raise) : (s.takeFault r).record = s.record := rfl

/-! ### haltTake -/

@[simp] theorem State.haltTake_params (s : State) : (s.haltTake).params = s.params := rfl

@[simp] theorem State.haltTake_ceBusy (s : State) : (s.haltTake).ceBusy = false := rfl

@[simp] theorem State.haltTake_abortPend (s : State) : (s.haltTake).abortPend = false := rfl

@[simp] theorem State.haltTake_lutValid (s : State) : (s.haltTake).lutValid = s.lutValid := rfl

@[simp] theorem State.haltTake_cp (s : State) : (s.haltTake).cp = s.cp := rfl

@[simp] theorem State.haltTake_cfg (s : State) : (s.haltTake).cfg = s.cfg := rfl

@[simp] theorem State.haltTake_err (s : State) : (s.haltTake).err = s.err := rfl

@[simp] theorem State.haltTake_irqStatus (s : State) :
    (s.haltTake).irqStatus = s.irqStatus ||| Irq.mask .ceDone := rfl

@[simp] theorem State.haltTake_irqEnable (s : State) : (s.haltTake).irqEnable = s.irqEnable := rfl

@[simp] theorem State.haltTake_seqCfg (s : State) : (s.haltTake).seqCfg = s.seqCfg := rfl

@[simp] theorem State.haltTake_seq (s : State) : (s.haltTake).seq = s.seq := rfl

@[simp] theorem State.haltTake_lutRam (s : State) : (s.haltTake).lutRam = s.lutRam := rfl

@[simp] theorem State.haltTake_lmem (s : State) : (s.haltTake).lmem = s.lmem := rfl

@[simp] theorem State.haltTake_lmemEpoch (s : State) : (s.haltTake).lmemEpoch = s.lmemEpoch := rfl

@[simp] theorem State.haltTake_freeCount (s : State) : (s.haltTake).freeCount = s.freeCount := rfl

@[simp] theorem State.haltTake_race (s : State) : (s.haltTake).race = s.race := rfl

@[simp] theorem State.haltTake_stale (s : State) : (s.haltTake).stale = s.stale := rfl

@[simp] theorem State.haltTake_schedule (s : State) : (s.haltTake).schedule = s.schedule := rfl

@[simp] theorem State.haltTake_record (s : State) : (s.haltTake).record = s.record := rfl

/-! ### abortTake -/

@[simp] theorem State.abortTake_params (s : State) : (s.abortTake).params = s.params := rfl

@[simp] theorem State.abortTake_ceBusy (s : State) : (s.abortTake).ceBusy = false := rfl

@[simp] theorem State.abortTake_abortPend (s : State) : (s.abortTake).abortPend = false := rfl

@[simp] theorem State.abortTake_lutValid (s : State) : (s.abortTake).lutValid = s.lutValid := rfl

@[simp] theorem State.abortTake_cp (s : State) : (s.abortTake).cp = s.cp := rfl

@[simp] theorem State.abortTake_cfg (s : State) : (s.abortTake).cfg = s.cfg := rfl

@[simp] theorem State.abortTake_err (s : State) : (s.abortTake).err = s.err := rfl

@[simp] theorem State.abortTake_irqStatus (s : State) :
    (s.abortTake).irqStatus = s.irqStatus ||| Irq.mask .ceAbort := rfl

@[simp] theorem State.abortTake_irqEnable (s : State) : (s.abortTake).irqEnable = s.irqEnable := rfl

@[simp] theorem State.abortTake_seqCfg (s : State) : (s.abortTake).seqCfg = s.seqCfg := rfl

@[simp] theorem State.abortTake_seq (s : State) : (s.abortTake).seq = s.seq := rfl

@[simp] theorem State.abortTake_lutRam (s : State) : (s.abortTake).lutRam = s.lutRam := rfl

@[simp] theorem State.abortTake_lmem (s : State) : (s.abortTake).lmem = s.lmem := rfl

@[simp] theorem State.abortTake_lmemEpoch (s : State) : (s.abortTake).lmemEpoch = s.lmemEpoch := rfl

@[simp] theorem State.abortTake_freeCount (s : State) : (s.abortTake).freeCount = s.freeCount := rfl

@[simp] theorem State.abortTake_race (s : State) : (s.abortTake).race = s.race := rfl

@[simp] theorem State.abortTake_stale (s : State) : (s.abortTake).stale = s.stale := rfl

@[simp] theorem State.abortTake_schedule (s : State) : (s.abortTake).schedule = s.schedule := rfl

@[simp] theorem State.abortTake_record (s : State) : (s.abortTake).record = s.record := rfl

/-! ### beginRun -/

@[simp] theorem State.beginRun_params (s : State) : (s.beginRun).params = s.params := rfl

@[simp] theorem State.beginRun_ceBusy (s : State) : (s.beginRun).ceBusy = true := rfl

@[simp] theorem State.beginRun_abortPend (s : State) : (s.beginRun).abortPend = false := rfl

@[simp] theorem State.beginRun_lutValid (s : State) : (s.beginRun).lutValid = s.lutValid := rfl

@[simp] theorem State.beginRun_cp (s : State) : (s.beginRun).cp = s.cfg.clBase := rfl

@[simp] theorem State.beginRun_cfg (s : State) : (s.beginRun).cfg = s.cfg := rfl

@[simp] theorem State.beginRun_err (s : State) : (s.beginRun).err = ErrRecord.clear := rfl

@[simp] theorem State.beginRun_irqStatus (s : State) : (s.beginRun).irqStatus = s.irqStatus := rfl

@[simp] theorem State.beginRun_irqEnable (s : State) : (s.beginRun).irqEnable = s.irqEnable := rfl

@[simp] theorem State.beginRun_seqCfg (s : State) : (s.beginRun).seqCfg = s.seqCfg := rfl

@[simp] theorem State.beginRun_seq (s : State) : (s.beginRun).seq = s.seq := rfl

@[simp] theorem State.beginRun_lutRam (s : State) : (s.beginRun).lutRam = s.lutRam := rfl

@[simp] theorem State.beginRun_lmem (s : State) : (s.beginRun).lmem = s.lmem := rfl

@[simp] theorem State.beginRun_lmemEpoch (s : State) : (s.beginRun).lmemEpoch = s.lmemEpoch := rfl

@[simp] theorem State.beginRun_freeCount (s : State) : (s.beginRun).freeCount = s.freeCount := rfl

@[simp] theorem State.beginRun_race (s : State) : (s.beginRun).race = Race.clear := rfl

@[simp] theorem State.beginRun_stale (s : State) : (s.beginRun).stale = s.stale := rfl

@[simp] theorem State.beginRun_schedule (s : State) : (s.beginRun).schedule = s.schedule := rfl

@[simp] theorem State.beginRun_record (s : State) : (s.beginRun).record = s.record := rfl

/-! ### seqStop -/

@[simp] theorem State.seqStop_params (s : State) : (s.seqStop).params = s.params := rfl

@[simp] theorem State.seqStop_ceBusy (s : State) : (s.seqStop).ceBusy = s.ceBusy := rfl

@[simp] theorem State.seqStop_abortPend (s : State) : (s.seqStop).abortPend = s.abortPend := rfl

@[simp] theorem State.seqStop_lutValid (s : State) : (s.seqStop).lutValid = s.lutValid := rfl

@[simp] theorem State.seqStop_cp (s : State) : (s.seqStop).cp = s.cp := rfl

@[simp] theorem State.seqStop_cfg (s : State) : (s.seqStop).cfg = s.cfg := rfl

@[simp] theorem State.seqStop_err (s : State) : (s.seqStop).err = s.err := rfl

@[simp] theorem State.seqStop_irqStatus (s : State) : (s.seqStop).irqStatus = s.irqStatus := rfl

@[simp] theorem State.seqStop_irqEnable (s : State) : (s.seqStop).irqEnable = s.irqEnable := rfl

@[simp] theorem State.seqStop_seqCfg (s : State) : (s.seqStop).seqCfg = s.seqCfg := rfl

@[simp] theorem State.seqStop_seq (s : State) : (s.seqStop).seq = { s.seq with run := false } := rfl

@[simp] theorem State.seqStop_lutRam (s : State) : (s.seqStop).lutRam = s.lutRam := rfl

@[simp] theorem State.seqStop_lmem (s : State) : (s.seqStop).lmem = s.lmem := rfl

@[simp] theorem State.seqStop_lmemEpoch (s : State) : (s.seqStop).lmemEpoch = s.lmemEpoch := rfl

@[simp] theorem State.seqStop_freeCount (s : State) : (s.seqStop).freeCount = s.freeCount := rfl

@[simp] theorem State.seqStop_race (s : State) : (s.seqStop).race = s.race := rfl

@[simp] theorem State.seqStop_stale (s : State) : (s.seqStop).stale = s.stale := rfl

@[simp] theorem State.seqStop_schedule (s : State) : (s.seqStop).schedule = s.schedule := rfl

@[simp] theorem State.seqStop_record (s : State) : (s.seqStop).record = s.record := rfl

/-! ### seqRefuse -/

@[simp] theorem State.seqRefuse_params (s : State) (e : Nat) : (s.seqRefuse e).params = s.params := rfl

@[simp] theorem State.seqRefuse_ceBusy (s : State) (e : Nat) : (s.seqRefuse e).ceBusy = s.ceBusy := rfl

@[simp] theorem State.seqRefuse_abortPend (s : State) (e : Nat) : (s.seqRefuse e).abortPend = s.abortPend := rfl

@[simp] theorem State.seqRefuse_lutValid (s : State) (e : Nat) : (s.seqRefuse e).lutValid = s.lutValid := rfl

@[simp] theorem State.seqRefuse_cp (s : State) (e : Nat) : (s.seqRefuse e).cp = s.cp := rfl

@[simp] theorem State.seqRefuse_cfg (s : State) (e : Nat) : (s.seqRefuse e).cfg = s.cfg := rfl

@[simp] theorem State.seqRefuse_err (s : State) (e : Nat) : (s.seqRefuse e).err = s.err := rfl

@[simp] theorem State.seqRefuse_irqStatus (s : State) (e : Nat) :
    (s.seqRefuse e).irqStatus = s.irqStatus ||| Irq.mask .seqErr := rfl

@[simp] theorem State.seqRefuse_irqEnable (s : State) (e : Nat) : (s.seqRefuse e).irqEnable = s.irqEnable := rfl

@[simp] theorem State.seqRefuse_seqCfg (s : State) (e : Nat) : (s.seqRefuse e).seqCfg = s.seqCfg := rfl

@[simp] theorem State.seqRefuse_seq (s : State) (e : Nat) :
    (s.seqRefuse e).seq = { s.seq with err := BitVec.ofNat 8 e } := rfl

@[simp] theorem State.seqRefuse_lutRam (s : State) (e : Nat) : (s.seqRefuse e).lutRam = s.lutRam := rfl

@[simp] theorem State.seqRefuse_lmem (s : State) (e : Nat) : (s.seqRefuse e).lmem = s.lmem := rfl

@[simp] theorem State.seqRefuse_lmemEpoch (s : State) (e : Nat) : (s.seqRefuse e).lmemEpoch = s.lmemEpoch := rfl

@[simp] theorem State.seqRefuse_freeCount (s : State) (e : Nat) : (s.seqRefuse e).freeCount = s.freeCount := rfl

@[simp] theorem State.seqRefuse_race (s : State) (e : Nat) : (s.seqRefuse e).race = s.race := rfl

@[simp] theorem State.seqRefuse_stale (s : State) (e : Nat) : (s.seqRefuse e).stale = s.stale := rfl

@[simp] theorem State.seqRefuse_schedule (s : State) (e : Nat) : (s.seqRefuse e).schedule = s.schedule := rfl

@[simp] theorem State.seqRefuse_record (s : State) (e : Nat) : (s.seqRefuse e).record = s.record := rfl

/-! ### observe -/

@[simp] theorem State.observe_params (s : State) (o : Observation) : (s.observe o).params = s.params := rfl

@[simp] theorem State.observe_ceBusy (s : State) (o : Observation) : (s.observe o).ceBusy = s.ceBusy := rfl

@[simp] theorem State.observe_abortPend (s : State) (o : Observation) : (s.observe o).abortPend = s.abortPend := rfl

@[simp] theorem State.observe_lutValid (s : State) (o : Observation) : (s.observe o).lutValid = s.lutValid := rfl

@[simp] theorem State.observe_cp (s : State) (o : Observation) : (s.observe o).cp = s.cp := rfl

@[simp] theorem State.observe_cfg (s : State) (o : Observation) : (s.observe o).cfg = s.cfg := rfl

@[simp] theorem State.observe_err (s : State) (o : Observation) : (s.observe o).err = s.err := rfl

@[simp] theorem State.observe_irqStatus (s : State) (o : Observation) : (s.observe o).irqStatus = s.irqStatus := rfl

@[simp] theorem State.observe_irqEnable (s : State) (o : Observation) : (s.observe o).irqEnable = s.irqEnable := rfl

@[simp] theorem State.observe_seqCfg (s : State) (o : Observation) : (s.observe o).seqCfg = s.seqCfg := rfl

@[simp] theorem State.observe_seq (s : State) (o : Observation) : (s.observe o).seq = s.seq := rfl

@[simp] theorem State.observe_lutRam (s : State) (o : Observation) : (s.observe o).lutRam = s.lutRam := rfl

@[simp] theorem State.observe_lmem (s : State) (o : Observation) : (s.observe o).lmem = s.lmem := rfl

@[simp] theorem State.observe_lmemEpoch (s : State) (o : Observation) : (s.observe o).lmemEpoch = s.lmemEpoch := rfl

@[simp] theorem State.observe_freeCount (s : State) (o : Observation) : (s.observe o).freeCount = s.freeCount := rfl

@[simp] theorem State.observe_race (s : State) (o : Observation) : (s.observe o).race = s.race := rfl

@[simp] theorem State.observe_stale (s : State) (o : Observation) : (s.observe o).stale = s.stale := rfl

@[simp] theorem State.observe_schedule (s : State) (o : Observation) : (s.observe o).schedule = s.schedule := rfl

@[simp] theorem State.observe_record (s : State) (o : Observation) : (s.observe o).record = o :: s.record := rfl

/-! ### await -/

@[simp] theorem State.await_params (s : State) (I : Span) (races : List Nat) : (s.await I races).params = s.params := rfl

@[simp] theorem State.await_ceBusy (s : State) (I : Span) (races : List Nat) : (s.await I races).ceBusy = s.ceBusy := rfl

@[simp] theorem State.await_abortPend (s : State) (I : Span) (races : List Nat) : (s.await I races).abortPend = s.abortPend := rfl

@[simp] theorem State.await_lutValid (s : State) (I : Span) (races : List Nat) : (s.await I races).lutValid = s.lutValid := rfl

@[simp] theorem State.await_cp (s : State) (I : Span) (races : List Nat) : (s.await I races).cp = s.cp := rfl

@[simp] theorem State.await_cfg (s : State) (I : Span) (races : List Nat) : (s.await I races).cfg = s.cfg := rfl

@[simp] theorem State.await_err (s : State) (I : Span) (races : List Nat) : (s.await I races).err = s.err := rfl

@[simp] theorem State.await_irqStatus (s : State) (I : Span) (races : List Nat) : (s.await I races).irqStatus = s.irqStatus := rfl

@[simp] theorem State.await_irqEnable (s : State) (I : Span) (races : List Nat) : (s.await I races).irqEnable = s.irqEnable := rfl

@[simp] theorem State.await_seqCfg (s : State) (I : Span) (races : List Nat) : (s.await I races).seqCfg = s.seqCfg := rfl

@[simp] theorem State.await_seq (s : State) (I : Span) (races : List Nat) : (s.await I races).seq = s.seq := rfl

@[simp] theorem State.await_lutRam (s : State) (I : Span) (races : List Nat) : (s.await I races).lutRam = s.lutRam := rfl

@[simp] theorem State.await_lmem (s : State) (I : Span) (races : List Nat) : (s.await I races).lmem = s.lmem := rfl

@[simp] theorem State.await_lmemEpoch (s : State) (I : Span) (races : List Nat) : (s.await I races).lmemEpoch = s.lmemEpoch := rfl

@[simp] theorem State.await_freeCount (s : State) (I : Span) (races : List Nat) : (s.await I races).freeCount = s.freeCount := rfl

@[simp] theorem State.await_stale (s : State) (I : Span) (races : List Nat) : (s.await I races).stale = s.stale := rfl

@[simp] theorem State.await_schedule (s : State) (I : Span) (races : List Nat) : (s.await I races).schedule = s.schedule := rfl

@[simp] theorem State.await_record (s : State) (I : Span) (races : List Nat) : (s.await I races).record = s.record := rfl

@[simp] theorem State.await_race_touched (s : State) (I : Span) (races : List Nat) :
    (s.await I races).race.touched = s.race.touched := rfl

@[simp] theorem State.await_race_hostWrites (s : State) (I : Span) (races : List Nat) :
    (s.await I races).race.hostWrites = s.race.hostWrites := rfl

@[simp] theorem State.await_race_tainted (s : State) (I : Span) (races : List Nat) :
    (s.await I races).race.tainted = s.race.tainted := rfl

/-! ### drawFree -/

@[simp] theorem State.drawFree_params (s : State) : (s.drawFree).params = s.params := rfl

@[simp] theorem State.drawFree_ceBusy (s : State) : (s.drawFree).ceBusy = s.ceBusy := rfl

@[simp] theorem State.drawFree_abortPend (s : State) : (s.drawFree).abortPend = s.abortPend := rfl

@[simp] theorem State.drawFree_lutValid (s : State) : (s.drawFree).lutValid = s.lutValid := rfl

@[simp] theorem State.drawFree_cp (s : State) : (s.drawFree).cp = s.cp := rfl

@[simp] theorem State.drawFree_cfg (s : State) : (s.drawFree).cfg = s.cfg := rfl

@[simp] theorem State.drawFree_err (s : State) : (s.drawFree).err = s.err := rfl

@[simp] theorem State.drawFree_irqStatus (s : State) : (s.drawFree).irqStatus = s.irqStatus := rfl

@[simp] theorem State.drawFree_irqEnable (s : State) : (s.drawFree).irqEnable = s.irqEnable := rfl

@[simp] theorem State.drawFree_seqCfg (s : State) : (s.drawFree).seqCfg = s.seqCfg := rfl

@[simp] theorem State.drawFree_seq (s : State) : (s.drawFree).seq = s.seq := rfl

@[simp] theorem State.drawFree_lutRam (s : State) : (s.drawFree).lutRam = s.lutRam := rfl

@[simp] theorem State.drawFree_lmem (s : State) : (s.drawFree).lmem = s.lmem := rfl

@[simp] theorem State.drawFree_lmemEpoch (s : State) : (s.drawFree).lmemEpoch = s.lmemEpoch := rfl

@[simp] theorem State.drawFree_freeCount (s : State) : (s.drawFree).freeCount = s.freeCount + 1 := rfl

@[simp] theorem State.drawFree_race (s : State) : (s.drawFree).race = s.race := rfl

@[simp] theorem State.drawFree_stale (s : State) : (s.drawFree).stale = s.stale := rfl

@[simp] theorem State.drawFree_schedule (s : State) : (s.drawFree).schedule = s.schedule := rfl

@[simp] theorem State.drawFree_record (s : State) : (s.drawFree).record = s.record := rfl

/-! ### touch -/

@[simp] theorem State.touch_params (s : State) (spans : List Span) : (s.touch spans).params = s.params := rfl

@[simp] theorem State.touch_ceBusy (s : State) (spans : List Span) : (s.touch spans).ceBusy = s.ceBusy := rfl

@[simp] theorem State.touch_abortPend (s : State) (spans : List Span) : (s.touch spans).abortPend = s.abortPend := rfl

@[simp] theorem State.touch_lutValid (s : State) (spans : List Span) : (s.touch spans).lutValid = s.lutValid := rfl

@[simp] theorem State.touch_cp (s : State) (spans : List Span) : (s.touch spans).cp = s.cp := rfl

@[simp] theorem State.touch_cfg (s : State) (spans : List Span) : (s.touch spans).cfg = s.cfg := rfl

@[simp] theorem State.touch_err (s : State) (spans : List Span) : (s.touch spans).err = s.err := rfl

@[simp] theorem State.touch_irqStatus (s : State) (spans : List Span) : (s.touch spans).irqStatus = s.irqStatus := rfl

@[simp] theorem State.touch_irqEnable (s : State) (spans : List Span) : (s.touch spans).irqEnable = s.irqEnable := rfl

@[simp] theorem State.touch_seqCfg (s : State) (spans : List Span) : (s.touch spans).seqCfg = s.seqCfg := rfl

@[simp] theorem State.touch_seq (s : State) (spans : List Span) : (s.touch spans).seq = s.seq := rfl

@[simp] theorem State.touch_lutRam (s : State) (spans : List Span) : (s.touch spans).lutRam = s.lutRam := rfl

@[simp] theorem State.touch_lmem (s : State) (spans : List Span) : (s.touch spans).lmem = s.lmem := rfl

@[simp] theorem State.touch_lmemEpoch (s : State) (spans : List Span) : (s.touch spans).lmemEpoch = s.lmemEpoch := rfl

@[simp] theorem State.touch_freeCount (s : State) (spans : List Span) : (s.touch spans).freeCount = s.freeCount := rfl

@[simp] theorem State.touch_stale (s : State) (spans : List Span) : (s.touch spans).stale = s.stale := rfl

@[simp] theorem State.touch_schedule (s : State) (spans : List Span) : (s.touch spans).schedule = s.schedule := rfl

@[simp] theorem State.touch_record (s : State) (spans : List Span) : (s.touch spans).record = s.record := rfl

@[simp] theorem State.touch_race_touched (s : State) (spans : List Span) :
    (s.touch spans).race.touched = spans ++ s.race.touched := rfl

@[simp] theorem State.touch_race_hostWrites (s : State) (spans : List Span) :
    (s.touch spans).race.hostWrites = s.race.hostWrites := rfl

@[simp] theorem State.touch_race_awaited (s : State) (spans : List Span) :
    (s.touch spans).race.awaited = s.race.awaited.filter fun a => !heldBy spans a := rfl

@[simp] theorem State.touch_race_tainted (s : State) (spans : List Span) :
    (s.touch spans).race.tainted =
      (s.race.tainted || spans.any fun I => s.race.hostWrites.any I.overlaps) := rfl

/-! ### seqLatch -/

@[simp] theorem State.seqLatch_params (s : State) : (s.seqLatch).params = s.params := rfl

@[simp] theorem State.seqLatch_ceBusy (s : State) : (s.seqLatch).ceBusy = s.ceBusy := rfl

@[simp] theorem State.seqLatch_abortPend (s : State) : (s.seqLatch).abortPend = s.abortPend := rfl

@[simp] theorem State.seqLatch_lutValid (s : State) : (s.seqLatch).lutValid = s.lutValid := rfl

@[simp] theorem State.seqLatch_cp (s : State) : (s.seqLatch).cp = s.cp := rfl

@[simp] theorem State.seqLatch_cfg (s : State) : (s.seqLatch).cfg = s.cfg := rfl

@[simp] theorem State.seqLatch_err (s : State) : (s.seqLatch).err = s.err := rfl

@[simp] theorem State.seqLatch_irqStatus (s : State) : (s.seqLatch).irqStatus = s.irqStatus := rfl

@[simp] theorem State.seqLatch_irqEnable (s : State) : (s.seqLatch).irqEnable = s.irqEnable := rfl

@[simp] theorem State.seqLatch_seqCfg (s : State) : (s.seqLatch).seqCfg = s.seqCfg := rfl

@[simp] theorem State.seqLatch_lutRam (s : State) : (s.seqLatch).lutRam = s.lutRam := rfl

@[simp] theorem State.seqLatch_lmem (s : State) : (s.seqLatch).lmem = s.lmem := rfl

@[simp] theorem State.seqLatch_lmemEpoch (s : State) : (s.seqLatch).lmemEpoch = s.lmemEpoch := rfl

@[simp] theorem State.seqLatch_freeCount (s : State) : (s.seqLatch).freeCount = s.freeCount := rfl

@[simp] theorem State.seqLatch_race (s : State) : (s.seqLatch).race = s.race := rfl

@[simp] theorem State.seqLatch_schedule (s : State) : (s.seqLatch).schedule = s.schedule := rfl

@[simp] theorem State.seqLatch_record (s : State) : (s.seqLatch).record = s.record := rfl

/-! ### seqFinish -/

@[simp] theorem State.seqFinish_params (s : State) (shown : Word) : (s.seqFinish shown).params = s.params := rfl

@[simp] theorem State.seqFinish_ceBusy (s : State) (shown : Word) : (s.seqFinish shown).ceBusy = s.ceBusy := rfl

@[simp] theorem State.seqFinish_abortPend (s : State) (shown : Word) : (s.seqFinish shown).abortPend = s.abortPend := rfl

@[simp] theorem State.seqFinish_lutValid (s : State) (shown : Word) : (s.seqFinish shown).lutValid = s.lutValid := rfl

@[simp] theorem State.seqFinish_cp (s : State) (shown : Word) : (s.seqFinish shown).cp = s.cp := rfl

@[simp] theorem State.seqFinish_cfg (s : State) (shown : Word) : (s.seqFinish shown).cfg = s.cfg := rfl

@[simp] theorem State.seqFinish_err (s : State) (shown : Word) : (s.seqFinish shown).err = s.err := rfl

@[simp] theorem State.seqFinish_irqEnable (s : State) (shown : Word) : (s.seqFinish shown).irqEnable = s.irqEnable := rfl

@[simp] theorem State.seqFinish_seqCfg (s : State) (shown : Word) : (s.seqFinish shown).seqCfg = s.seqCfg := rfl

@[simp] theorem State.seqFinish_lutRam (s : State) (shown : Word) : (s.seqFinish shown).lutRam = s.lutRam := rfl

@[simp] theorem State.seqFinish_lmem (s : State) (shown : Word) : (s.seqFinish shown).lmem = s.lmem := rfl

@[simp] theorem State.seqFinish_lmemEpoch (s : State) (shown : Word) : (s.seqFinish shown).lmemEpoch = s.lmemEpoch := rfl

@[simp] theorem State.seqFinish_freeCount (s : State) (shown : Word) : (s.seqFinish shown).freeCount = s.freeCount := rfl

@[simp] theorem State.seqFinish_race (s : State) (shown : Word) : (s.seqFinish shown).race = s.race := rfl

@[simp] theorem State.seqFinish_stale (s : State) (shown : Word) : (s.seqFinish shown).stale = s.stale := rfl

@[simp] theorem State.seqFinish_schedule (s : State) (shown : Word) : (s.seqFinish shown).schedule = s.schedule := rfl

@[simp] theorem State.seqFinish_record (s : State) (shown : Word) : (s.seqFinish shown).record = s.record := rfl

/-! ### seqNextFrame -/

@[simp] theorem State.seqNextFrame_params (s : State) (shown : Word) : (s.seqNextFrame shown).params = s.params := rfl

@[simp] theorem State.seqNextFrame_ceBusy (s : State) (shown : Word) : (s.seqNextFrame shown).ceBusy = s.ceBusy := rfl

@[simp] theorem State.seqNextFrame_abortPend (s : State) (shown : Word) : (s.seqNextFrame shown).abortPend = s.abortPend := rfl

@[simp] theorem State.seqNextFrame_lutValid (s : State) (shown : Word) : (s.seqNextFrame shown).lutValid = s.lutValid := rfl

@[simp] theorem State.seqNextFrame_cp (s : State) (shown : Word) : (s.seqNextFrame shown).cp = s.cp := rfl

@[simp] theorem State.seqNextFrame_cfg (s : State) (shown : Word) : (s.seqNextFrame shown).cfg = s.cfg := rfl

@[simp] theorem State.seqNextFrame_err (s : State) (shown : Word) : (s.seqNextFrame shown).err = s.err := rfl

@[simp] theorem State.seqNextFrame_irqEnable (s : State) (shown : Word) : (s.seqNextFrame shown).irqEnable = s.irqEnable := rfl

@[simp] theorem State.seqNextFrame_seqCfg (s : State) (shown : Word) : (s.seqNextFrame shown).seqCfg = s.seqCfg := rfl

@[simp] theorem State.seqNextFrame_lutRam (s : State) (shown : Word) : (s.seqNextFrame shown).lutRam = s.lutRam := rfl

@[simp] theorem State.seqNextFrame_lmem (s : State) (shown : Word) : (s.seqNextFrame shown).lmem = s.lmem := rfl

@[simp] theorem State.seqNextFrame_lmemEpoch (s : State) (shown : Word) : (s.seqNextFrame shown).lmemEpoch = s.lmemEpoch := rfl

@[simp] theorem State.seqNextFrame_freeCount (s : State) (shown : Word) : (s.seqNextFrame shown).freeCount = s.freeCount := rfl

@[simp] theorem State.seqNextFrame_race (s : State) (shown : Word) : (s.seqNextFrame shown).race = s.race := rfl

@[simp] theorem State.seqNextFrame_stale (s : State) (shown : Word) : (s.seqNextFrame shown).stale = s.stale := rfl

@[simp] theorem State.seqNextFrame_schedule (s : State) (shown : Word) : (s.seqNextFrame shown).schedule = s.schedule := rfl

@[simp] theorem State.seqNextFrame_record (s : State) (shown : Word) : (s.seqNextFrame shown).record = s.record := rfl

/-! ### The fields the sequencer's updates change -/

@[simp] theorem State.seqLatch_seq (s : State) : s.seqLatch.seq =
    { run := true, index := 0, elapsed := 0, shown := 0, err := 0
      interval := BitVec.ofNat 32
        (seqIntervalOf s.seqCfg.duration.toNat s.cfg.frames.toNat s.seqCfg.minInterval.toNat)
      n := s.cfg.frames, w := s.cfg.canvasW, h := s.cfg.canvasH, presAddr := s.seqCfg.base } := rfl

@[simp] theorem State.seqLatch_stale (s : State) : s.seqLatch.stale = [] := rfl

@[simp] theorem State.seqFinish_seq (s : State) (shown : Word) : (s.seqFinish shown).seq =
    { s.seq with elapsed := 0, shown := shown, run := false } := rfl

@[simp] theorem State.seqFinish_irqStatus (s : State) (shown : Word) :
    (s.seqFinish shown).irqStatus = s.irqStatus ||| Irq.mask .seqDone := rfl

@[simp] theorem State.seqNextFrame_seq (s : State) (shown : Word) : (s.seqNextFrame shown).seq =
    { s.seq with
      elapsed := 0, shown := shown, index := BitVec.ofNat 8 s.nextIndex
      presAddr := BitVec.ofNat 32
        (s.seqCfg.base.toNat + s.nextIndex * s.seq.w.toNat * s.seq.h.toNat) } := rfl

@[simp] theorem State.seqNextFrame_irqStatus (s : State) (shown : Word) :
    (s.seqNextFrame shown).irqStatus = s.irqStatus ||| Irq.mask .seqFrame := rfl

/-! ### store and loadLut -/

@[simp] theorem State.store_params (s : State) (lo len : Nat) (g : Nat → Byte) : (s.store lo len g).params = s.params := by
  unfold State.store; split <;> rfl

@[simp] theorem State.store_ceBusy (s : State) (lo len : Nat) (g : Nat → Byte) : (s.store lo len g).ceBusy = s.ceBusy := by
  unfold State.store; split <;> rfl

@[simp] theorem State.store_abortPend (s : State) (lo len : Nat) (g : Nat → Byte) : (s.store lo len g).abortPend = s.abortPend := by
  unfold State.store; split <;> rfl

@[simp] theorem State.store_lutValid (s : State) (lo len : Nat) (g : Nat → Byte) : (s.store lo len g).lutValid = s.lutValid := by
  unfold State.store; split <;> rfl

@[simp] theorem State.store_cp (s : State) (lo len : Nat) (g : Nat → Byte) : (s.store lo len g).cp = s.cp := by
  unfold State.store; split <;> rfl

@[simp] theorem State.store_cfg (s : State) (lo len : Nat) (g : Nat → Byte) : (s.store lo len g).cfg = s.cfg := by
  unfold State.store; split <;> rfl

@[simp] theorem State.store_err (s : State) (lo len : Nat) (g : Nat → Byte) : (s.store lo len g).err = s.err := by
  unfold State.store; split <;> rfl

@[simp] theorem State.store_irqStatus (s : State) (lo len : Nat) (g : Nat → Byte) : (s.store lo len g).irqStatus = s.irqStatus := by
  unfold State.store; split <;> rfl

@[simp] theorem State.store_irqEnable (s : State) (lo len : Nat) (g : Nat → Byte) : (s.store lo len g).irqEnable = s.irqEnable := by
  unfold State.store; split <;> rfl

@[simp] theorem State.store_seqCfg (s : State) (lo len : Nat) (g : Nat → Byte) : (s.store lo len g).seqCfg = s.seqCfg := by
  unfold State.store; split <;> rfl

@[simp] theorem State.store_seq (s : State) (lo len : Nat) (g : Nat → Byte) : (s.store lo len g).seq = s.seq := by
  unfold State.store; split <;> rfl

@[simp] theorem State.store_lutRam (s : State) (lo len : Nat) (g : Nat → Byte) : (s.store lo len g).lutRam = s.lutRam := by
  unfold State.store; split <;> rfl

@[simp] theorem State.store_lmemEpoch (s : State) (lo len : Nat) (g : Nat → Byte) : (s.store lo len g).lmemEpoch = s.lmemEpoch := by
  unfold State.store; split <;> rfl

@[simp] theorem State.store_race (s : State) (lo len : Nat) (g : Nat → Byte) : (s.store lo len g).race = s.race := by
  unfold State.store; split <;> rfl

@[simp] theorem State.store_stale (s : State) (lo len : Nat) (g : Nat → Byte) : (s.store lo len g).stale = s.stale := by
  unfold State.store; split <;> rfl

@[simp] theorem State.store_schedule (s : State) (lo len : Nat) (g : Nat → Byte) : (s.store lo len g).schedule = s.schedule := by
  unfold State.store; split <;> rfl

@[simp] theorem State.store_record (s : State) (lo len : Nat) (g : Nat → Byte) : (s.store lo len g).record = s.record := by
  unfold State.store; split <;> rfl

@[simp] theorem State.loadLut_params (s : State) (f : Nat → Half) : (s.loadLut f).params = s.params := by
  unfold State.loadLut; split <;> rfl

@[simp] theorem State.loadLut_ceBusy (s : State) (f : Nat → Half) : (s.loadLut f).ceBusy = s.ceBusy := by
  unfold State.loadLut; split <;> rfl

@[simp] theorem State.loadLut_abortPend (s : State) (f : Nat → Half) : (s.loadLut f).abortPend = s.abortPend := by
  unfold State.loadLut; split <;> rfl

@[simp] theorem State.loadLut_cp (s : State) (f : Nat → Half) : (s.loadLut f).cp = s.cp := by
  unfold State.loadLut; split <;> rfl

@[simp] theorem State.loadLut_cfg (s : State) (f : Nat → Half) : (s.loadLut f).cfg = s.cfg := by
  unfold State.loadLut; split <;> rfl

@[simp] theorem State.loadLut_err (s : State) (f : Nat → Half) : (s.loadLut f).err = s.err := by
  unfold State.loadLut; split <;> rfl

@[simp] theorem State.loadLut_irqStatus (s : State) (f : Nat → Half) : (s.loadLut f).irqStatus = s.irqStatus := by
  unfold State.loadLut; split <;> rfl

@[simp] theorem State.loadLut_irqEnable (s : State) (f : Nat → Half) : (s.loadLut f).irqEnable = s.irqEnable := by
  unfold State.loadLut; split <;> rfl

@[simp] theorem State.loadLut_seqCfg (s : State) (f : Nat → Half) : (s.loadLut f).seqCfg = s.seqCfg := by
  unfold State.loadLut; split <;> rfl

@[simp] theorem State.loadLut_seq (s : State) (f : Nat → Half) : (s.loadLut f).seq = s.seq := by
  unfold State.loadLut; split <;> rfl

@[simp] theorem State.loadLut_lmem (s : State) (f : Nat → Half) : (s.loadLut f).lmem = s.lmem := by
  unfold State.loadLut; split <;> rfl

@[simp] theorem State.loadLut_lmemEpoch (s : State) (f : Nat → Half) : (s.loadLut f).lmemEpoch = s.lmemEpoch := by
  unfold State.loadLut; split <;> rfl

@[simp] theorem State.loadLut_race (s : State) (f : Nat → Half) : (s.loadLut f).race = s.race := by
  unfold State.loadLut; split <;> rfl

@[simp] theorem State.loadLut_stale (s : State) (f : Nat → Half) : (s.loadLut f).stale = s.stale := by
  unfold State.loadLut; split <;> rfl

@[simp] theorem State.loadLut_schedule (s : State) (f : Nat → Half) : (s.loadLut f).schedule = s.schedule := by
  unfold State.loadLut; split <;> rfl

@[simp] theorem State.loadLut_record (s : State) (f : Nat → Half) : (s.loadLut f).record = s.record := by
  unfold State.loadLut; split <;> rfl

@[simp] theorem State.loadLut_lutValid (s : State) (f : Nat → Half) :
    (s.loadLut f).lutValid = true := by
  unfold State.loadLut; split <;> rfl

/-! ### storeSurface -/

@[simp] theorem State.storeSurface_params (s : State) (S : Surface) (p : Nat → Nat → Nat) :
    (s.storeSurface S p).params = s.params :=
  s.store_params _ _ _

@[simp] theorem State.storeSurface_ceBusy (s : State) (S : Surface) (p : Nat → Nat → Nat) :
    (s.storeSurface S p).ceBusy = s.ceBusy :=
  s.store_ceBusy _ _ _

@[simp] theorem State.storeSurface_abortPend (s : State) (S : Surface) (p : Nat → Nat → Nat) :
    (s.storeSurface S p).abortPend = s.abortPend :=
  s.store_abortPend _ _ _

@[simp] theorem State.storeSurface_lutValid (s : State) (S : Surface) (p : Nat → Nat → Nat) :
    (s.storeSurface S p).lutValid = s.lutValid :=
  s.store_lutValid _ _ _

@[simp] theorem State.storeSurface_cp (s : State) (S : Surface) (p : Nat → Nat → Nat) :
    (s.storeSurface S p).cp = s.cp :=
  s.store_cp _ _ _

@[simp] theorem State.storeSurface_cfg (s : State) (S : Surface) (p : Nat → Nat → Nat) :
    (s.storeSurface S p).cfg = s.cfg :=
  s.store_cfg _ _ _

@[simp] theorem State.storeSurface_err (s : State) (S : Surface) (p : Nat → Nat → Nat) :
    (s.storeSurface S p).err = s.err :=
  s.store_err _ _ _

@[simp] theorem State.storeSurface_irqStatus (s : State) (S : Surface) (p : Nat → Nat → Nat) :
    (s.storeSurface S p).irqStatus = s.irqStatus :=
  s.store_irqStatus _ _ _

@[simp] theorem State.storeSurface_irqEnable (s : State) (S : Surface) (p : Nat → Nat → Nat) :
    (s.storeSurface S p).irqEnable = s.irqEnable :=
  s.store_irqEnable _ _ _

@[simp] theorem State.storeSurface_seqCfg (s : State) (S : Surface) (p : Nat → Nat → Nat) :
    (s.storeSurface S p).seqCfg = s.seqCfg :=
  s.store_seqCfg _ _ _

@[simp] theorem State.storeSurface_seq (s : State) (S : Surface) (p : Nat → Nat → Nat) :
    (s.storeSurface S p).seq = s.seq :=
  s.store_seq _ _ _

@[simp] theorem State.storeSurface_lutRam (s : State) (S : Surface) (p : Nat → Nat → Nat) :
    (s.storeSurface S p).lutRam = s.lutRam :=
  s.store_lutRam _ _ _

@[simp] theorem State.storeSurface_lmemEpoch (s : State) (S : Surface) (p : Nat → Nat → Nat) :
    (s.storeSurface S p).lmemEpoch = s.lmemEpoch :=
  s.store_lmemEpoch _ _ _

@[simp] theorem State.storeSurface_race (s : State) (S : Surface) (p : Nat → Nat → Nat) :
    (s.storeSurface S p).race = s.race :=
  s.store_race _ _ _

@[simp] theorem State.storeSurface_stale (s : State) (S : Surface) (p : Nat → Nat → Nat) :
    (s.storeSurface S p).stale = s.stale :=
  s.store_stale _ _ _

@[simp] theorem State.storeSurface_schedule (s : State) (S : Surface) (p : Nat → Nat → Nat) :
    (s.storeSurface S p).schedule = s.schedule :=
  s.store_schedule _ _ _

@[simp] theorem State.storeSurface_record (s : State) (S : Surface) (p : Nat → Nat → Nat) :
    (s.storeSurface S p).record = s.record :=
  s.store_record _ _ _

end Sys2Proof.Machine
end

