-- ==== Sys2Proof/Laws/Memory.lean ====
section
/-! SUPPORT. The laws of memory: read after write, the canonical form, byte order, and what a command's
store does. -/

namespace Sys2Proof.Machine

/-! ## Intervals -/

theorem Span.holds_iff (I : Span) (a : Nat) : I.holds a = true ↔ I.lo ≤ a ∧ a < I.lo + I.len := by
  simp [Span.holds]

theorem Span.holds_eq_false_iff (I : Span) (a : Nat) :
    I.holds a = false ↔ a < I.lo ∨ I.lo + I.len ≤ a := by
  rw [← Bool.not_eq_true, Span.holds_iff]; omega

/-- The overlap test says whether the two intervals share a byte. -/
theorem Span.overlaps_eq_false_iff (I J : Span) : I.overlaps J = false ↔ I.Apart J := by
  simp only [Span.overlaps, Span.Apart, Span.holds_iff, decide_eq_false_iff_not]
  constructor
  · intro h a; omega
  · intro h; have := h (max I.lo J.lo); omega

theorem Span.Apart.symm {I J : Span} (h : I.Apart J) : J.Apart I := fun a ⟨hj, hi⟩ => h a ⟨hi, hj⟩

/-! ## Lookups -/

theorem lookup_append (m n : List Host.Cell) (a : Nat) :
    lookup (m ++ n) a = (lookup m a).or (lookup n a) := by
  induction m with
  | nil => simp [lookup]
  | cons c m ih =>
    obtain ⟨k, b⟩ := c
    by_cases h : a = k <;> simp [lookup, h, ih]

/-- A filter on addresses keeps what is stored at the addresses it keeps. -/
theorem lookup_filter (m : List Host.Cell) (q : Nat → Bool) (a : Nat) :
    lookup (m.filter fun c => q c.1) a = if q a then lookup m a else none := by
  induction m with
  | nil => simp [lookup]
  | cons c m ih =>
    obtain ⟨k, b⟩ := c
    by_cases hq : q k <;> by_cases ha : a = k <;> simp_all [lookup]

theorem lookup_range (lo len : Nat) (g : Nat → Byte) (a : Nat) :
    lookup ((List.range len).map fun k => (lo + k, g k)) a =
      if lo ≤ a ∧ a < lo + len then some (g (a - lo)) else none := by
  induction len with
  | zero => simp only [List.range_zero, List.map_nil, lookup]; rw [if_neg (by omega)]
  | succ n ih =>
    rw [List.range_succ, List.map_append, lookup_append, ih]
    simp only [List.map_cons, List.map_nil, lookup]
    by_cases h1 : lo ≤ a ∧ a < lo + n
    · rw [if_pos h1, if_pos (show lo ≤ a ∧ a < lo + (n + 1) by omega)]; rfl
    · by_cases h2 : a = lo + n
      · subst h2
        rw [if_neg h1, if_pos rfl, if_pos (show lo ≤ lo + n ∧ lo + n < lo + (n + 1) by omega)]
        simp
      · rw [if_neg h1, if_neg h2, if_neg (show ¬ (lo ≤ a ∧ a < lo + (n + 1)) by omega)]; rfl

/-- Read after write: the written bytes inside the interval, the old ones outside. -/
theorem lookup_splice (m : List Host.Cell) (lo len : Nat) (g : Nat → Byte) (a : Nat) :
    lookup (splice m lo len g) a =
      if lo ≤ a ∧ a < lo + len then some (g (a - lo)) else lookup m a := by
  unfold splice
  rw [lookup_append, lookup_append, lookup_range,
    lookup_filter m (fun x => decide (x < lo)), lookup_filter m (fun x => decide (lo + len ≤ x))]
  simp only [decide_eq_true_eq]
  split_ifs <;> first | omega | (cases lookup m a <;> rfl)

/-! ## The canonical form -/

theorem Memory.wf_filter {m : List Host.Cell} (h : Memory.wf m) (q : Nat → Bool) :
    Memory.wf (m.filter fun c => q c.1) := by
  unfold Memory.wf at *
  exact h.sublist (List.filter_sublist.map Prod.fst)

/-- Every store keeps the canonical form. -/
theorem Memory.wf_splice {m : List Host.Cell} (h : Memory.wf m) (lo len : Nat) (g : Nat → Byte) :
    Memory.wf (splice m lo len g) := by
  have h1 := Memory.wf_filter h (fun x => decide (x < lo))
  have h2 := Memory.wf_filter h (fun x => decide (lo + len ≤ x))
  have hr : Memory.wf ((List.range len).map fun k => (lo + k, g k)) := by
    unfold Memory.wf
    rw [List.map_map, List.pairwise_map]
    exact (List.pairwise_lt_range).imp (by intro a b hab; simpa using hab)
  unfold Memory.wf splice at *
  simp only [List.map_append, List.pairwise_append, List.mem_append, List.mem_map, List.mem_filter,
    List.mem_range, decide_eq_true_eq]
  refine ⟨⟨h1, hr, ?_⟩, h2, ?_⟩
  · rintro _ ⟨c, ⟨_, hc⟩, rfl⟩ _ ⟨_, ⟨k, hk, rfl⟩, rfl⟩; omega
  · rintro _ (⟨c, ⟨_, hc⟩, rfl⟩ | ⟨_, ⟨k, hk, rfl⟩, rfl⟩) _ ⟨d, ⟨_, hd⟩, rfl⟩ <;> omega

/-- Every address a store lists lies in the stored interval or was listed before. -/
theorem mem_splice {m : List Host.Cell} {lo len : Nat} {g : Nat → Byte} {c : Host.Cell}
    (h : c ∈ splice m lo len g) : (lo ≤ c.1 ∧ c.1 < lo + len) ∨ c ∈ m := by
  unfold splice at h
  simp only [List.mem_append, List.mem_map, List.mem_filter, List.mem_range] at h
  obtain (⟨h, _⟩ | ⟨k, hk, rfl⟩) | ⟨h, _⟩ := h
  · exact .inr h
  · exact .inl ⟨by simp, by simpa using hk⟩
  · exact .inr h

/-! ## Bytes of LMEM -/

theorem State.readByte_eq {s t : State} (hm : t.lmem = s.lmem) (he : t.lmemEpoch = s.lmemEpoch) :
    t.readByte = s.readByte := by
  funext a; simp [State.readByte, hm, he]

theorem State.readByte_putBytes (s : State) (lo len : Nat) (g : Nat → Byte) (a : Nat) :
    (s.putBytes lo len g).readByte a =
      if lo ≤ a ∧ a < lo + len then g (a - lo) else s.readByte a := by
  simp only [State.readByte, State.putBytes_lmem, State.putBytes_lmemEpoch, lookup_splice]
  split <;> rfl

/-- What a command's store can do: only the bytes of its interval change. -/
theorem State.readByte_store_outside (s : State) (lo len : Nat) (g : Nat → Byte) {a : Nat}
    (h : ¬ (lo ≤ a ∧ a < lo + len)) : (s.store lo len g).readByte a = s.readByte a := by
  unfold State.store
  split
  · rename_i ht
    have := s.readByte_putBytes lo len (fun k => Config.freeByte s.freeCount (lo + k)) a
    rw [if_neg h] at this
    rw [← this]; rfl
  · rw [State.readByte_putBytes, if_neg h]

/-- In an undisturbed run a command's store stores what it says. -/
theorem State.readByte_store_inside (s : State) (lo len : Nat) (g : Nat → Byte) {a : Nat}
    (ht : s.race.tainted = false) (h : lo ≤ a ∧ a < lo + len) :
    (s.store lo len g).readByte a = g (a - lo) := by
  unfold State.store
  rw [if_neg (by simp [ht]), State.readByte_putBytes, if_pos h]

/-- In a disturbed run a command's store leaves a free byte at every address of its interval. -/
theorem State.readByte_store_tainted (s : State) (lo len : Nat) (g : Nat → Byte) {a : Nat}
    (ht : s.race.tainted = true) (h : lo ≤ a ∧ a < lo + len) :
    (s.store lo len g).readByte a = Config.freeByte s.freeCount a := by
  have e := s.readByte_putBytes lo len (fun k => Config.freeByte s.freeCount (lo + k)) a
  rw [if_pos h, Nat.add_sub_cancel' h.1] at e
  unfold State.store
  rw [if_pos ht]
  exact e

/-- In a disturbed run a command's store uses up one draw of free bytes. -/
theorem State.store_freeCount_tainted (s : State) (lo len : Nat) (g : Nat → Byte)
    (ht : s.race.tainted = true) : (s.store lo len g).freeCount = s.freeCount + 1 := by
  unfold State.store; rw [if_pos ht]

/-- In a disturbed run a LUTLD loads a free table. -/
theorem State.loadLut_lutRam_tainted (s : State) (f : Nat → Half) (ht : s.race.tainted = true) :
    (s.loadLut f).lutRam = Config.freeTable s.freeCount := by
  unfold State.loadLut; rw [if_pos ht]

theorem State.store_lmem_cases (s : State) (lo len : Nat) (g : Nat → Byte) :
    ∃ g', (s.store lo len g).lmem = splice s.lmem lo len g' := by
  unfold State.store
  split
  · exact ⟨_, rfl⟩
  · exact ⟨_, rfl⟩

/-! ## Byte order -/

/-- A little-endian value depends on its bytes only, wherever they stand. -/
theorem leValue_congr_at {b c : Nat → Byte} (n : Nat) : ∀ {a d : Nat},
    (∀ k < n, b (a + k) = c (d + k)) → leValue b a n = leValue c d n := by
  induction n with
  | zero => intros; rfl
  | succ n ih =>
    intro a d h
    have h0 : b a = c d := h 0 (by omega)
    have h1 : leValue b (a + 1) n = leValue c (d + 1) n := ih fun k hk => by
      have := h (k + 1) (by omega)
      rwa [Nat.add_comm k 1, ← Nat.add_assoc, ← Nat.add_assoc] at this
    simp only [leValue, h0, h1]

theorem leValue_congr {b c : Nat → Byte} (n : Nat) {a : Nat}
    (h : ∀ k < n, b (a + k) = c (a + k)) : leValue b a n = leValue c a n :=
  leValue_congr_at n h

/-- The value of the little-endian bytes of v is v, cut to their number. -/
theorem leValue_leByte (v a n : Nat) : leValue (fun k => leByte v (k - a)) a n = v % 256 ^ n := by
  have shift : ∀ (n b d : Nat), leValue (fun k => leByte v (k - b)) (b + d) n = v / 256 ^ d % 256 ^ n := by
    intro n
    induction n with
    | zero => intro b d; simp [leValue, Nat.mod_one]
    | succ n ih =>
      intro b d
      have h := ih b (d + 1)
      simp only [leValue]
      rw [Nat.add_assoc, h]
      have e : leByte v (b + d - b) = BitVec.ofNat 8 (v / 256 ^ d) := by
        simp [leByte]
      rw [e]
      simp only [BitVec.toNat_ofNat]
      have e2 : v / 256 ^ (d + 1) = v / 256 ^ d / 256 := by
        rw [Nat.pow_succ, Nat.div_div_eq_div_mul]
      rw [e2, show 256 ^ (n + 1) = 256 * 256 ^ n from Nat.pow_succ', Nat.mod_mul]
  simpa using shift n a 0

theorem leByte_zero (v : Nat) : leByte v 0 = BitVec.ofNat 8 v := by simp [leByte]

/-- A little-endian value of n bytes is below 256^n. -/
theorem leValue_lt (b : Nat → Byte) (n : Nat) : ∀ a, leValue b a n < 256 ^ n := by
  induction n with
  | zero => intro a; simp [leValue]
  | succ n ih =>
    intro a
    have h := ih (a + 1)
    have hb := (b a).isLt
    simp only [leValue, Nat.pow_succ]
    omega

/-- The bytes of a little-endian value are the bytes it was read from. -/
theorem leByte_leValue (b : Nat → Byte) (n : Nat) : ∀ a k, k < n →
    leByte (leValue b a n) k = b (a + k) := by
  induction n with
  | zero => intro a k h; omega
  | succ n ih =>
    intro a k hk
    have hb := (b a).isLt
    cases k with
    | zero =>
      apply BitVec.eq_of_toNat_eq
      simp only [leValue, leByte_zero, BitVec.toNat_ofNat, Nat.add_zero]
      omega
    | succ k =>
      rw [show a + (k + 1) = a + 1 + k by omega, ← ih (a + 1) k (by omega)]
      have e : leValue b a (n + 1) = (b a).toNat + 256 * leValue b (a + 1) n := rfl
      unfold leByte
      rw [e, Nat.pow_succ', ← Nat.div_div_eq_div_mul, Nat.add_mul_div_left _ _ (by decide),
        Nat.div_eq_of_lt hb, Nat.zero_add]

/-- A word of a command, from the four bytes it is laid out as. -/
theorem wordAt_byte (W : CmdWords) (k : Nat) : wordAt W.byte k = W.word k := by
  have h : leValue W.byte (4 * k) 4 = leValue (fun j => leByte (W.word k).toNat (j - 0)) 0 4 :=
    leValue_congr_at 4 fun j hj => by
      have e1 : (4 * k + j) / 4 = k := by omega
      have e2 : (4 * k + j) % 4 = j := by omega
      simp [CmdWords.byte, e1, e2]
  have hw := (W.word k).isLt
  rw [wordAt, h, leValue_leByte, Nat.mod_eq_of_lt (by omega), BitVec.ofNat_toNat, BitVec.setWidth_eq]

/-- The words of a command depend on its 32 bytes only. -/
theorem CmdWords.ofBytes_congr {b c : Nat → Byte} (h : ∀ j < 32, b j = c j) :
    CmdWords.ofBytes b = CmdWords.ofBytes c := by
  have hw : ∀ k < 8, wordAt b k = wordAt c k := fun k hk => by
    unfold wordAt; rw [leValue_congr 4 fun j hj => h (4 * k + j) (by omega)]
  unfold CmdWords.ofBytes
  rw [hw 0, hw 1, hw 2, hw 3, hw 4, hw 5, hw 6, hw 7] <;> decide

theorem State.memRead_congr {s t : State} {a n : Nat}
    (h : ∀ k < n, t.readByte (a + k) = s.readByte (a + k)) : t.memRead a n = s.memRead a n :=
  leValue_congr n h

end Sys2Proof.Machine
end

