-- ==== Sys2Proof/Laws/Surface.lean ====
section
/-! SUPPORT. The laws of surfaces: where samples lie, and what they read after a store. -/

namespace Sys2Proof.Machine

theorem bpe_pos (t : Fmt) : 0 < bpe t := by cases t <;> decide

theorem pow_bpe (t : Fmt) : 256 ^ bpe t = maxOf t + 1 := by cases t <;> decide

/-- Every sample is at most MAX of its format. -/
theorem Surface.pix_le (S : Surface) (s : State) (y x : Nat) : S.pix s y x ≤ maxOf S.fmt := by
  have h := leValue_lt s.readByte (bpe S.fmt) (S.addr y x)
  rw [pow_bpe] at h
  exact Nat.lt_succ_iff.mp h

theorem sample_index_lt {w h y x : Nat} (hy : y < h) (hx : x < w) : y * w + x < w * h := by
  have h1 : (y + 1) * w ≤ h * w := Nat.mul_le_mul_right w hy
  rw [Nat.mul_comm w h]
  calc y * w + x < y * w + w := by omega
    _ = (y + 1) * w := by ring
    _ ≤ h * w := h1

/-- The bytes of a sample lie in the region of its surface. -/
theorem Surface.addr_in_span (S : Surface) {y x k : Nat} (hy : y < S.h) (hx : x < S.w)
    (hk : k < bpe S.fmt) : S.base ≤ S.addr y x + k ∧ S.addr y x + k < S.base + S.len := by
  have hi := sample_index_lt hy hx
  unfold Surface.addr Surface.len
  have h1 : (y * S.w + x + 1) * bpe S.fmt ≤ S.w * S.h * bpe S.fmt := Nat.mul_le_mul_right _ hi
  rw [Nat.add_mul, Nat.one_mul] at h1
  omega

/-- Byte k of sample (y, x) among the bytes of the surface. -/
theorem Surface.byteOf_sample (S : Surface) (p : Nat → Nat → Nat) {y x k : Nat} (hx : x < S.w)
    (hk : k < bpe S.fmt) :
    S.byteOf p ((y * S.w + x) * bpe S.fmt + k) = leByte (p y x) k := by
  have hw : 0 < S.w := by omega
  have e1 : ((y * S.w + x) * bpe S.fmt + k) / bpe S.fmt = y * S.w + x := by
    rw [Nat.mul_comm, Nat.mul_add_div (bpe_pos _), Nat.div_eq_of_lt hk, Nat.add_zero]
  have e2 : ((y * S.w + x) * bpe S.fmt + k) % bpe S.fmt = k := by
    rw [Nat.mul_comm, Nat.mul_add_mod, Nat.mod_eq_of_lt hk]
  have e3 : (y * S.w + x) / S.w = y := by
    rw [Nat.mul_comm, Nat.mul_add_div hw, Nat.div_eq_of_lt hx, Nat.add_zero]
  have e4 : (y * S.w + x) % S.w = x := by
    rw [Nat.mul_comm, Nat.mul_add_mod, Nat.mod_eq_of_lt hx]
  unfold Surface.byteOf
  rw [e1, e2, e3, e4]

/-- What a stored surface reads: every sample as computed, cut to its format. -/
theorem Surface.pix_storeSurface (s : State) (D : Surface) (p : Nat → Nat → Nat) {y x : Nat}
    (ht : s.race.tainted = false) (hy : y < D.h) (hx : x < D.w) :
    D.pix (s.storeSurface D p) y x = p y x % 256 ^ bpe D.fmt := by
  rw [← leValue_leByte (p y x) (D.addr y x) (bpe D.fmt)]
  refine leValue_congr _ fun k hk => ?_
  have hin := D.addr_in_span hy hx hk
  unfold State.storeSurface
  rw [State.readByte_store_inside _ _ _ _ ht hin, Nat.add_sub_cancel_left]
  rw [← D.byteOf_sample p hx hk]
  congr 1
  unfold Surface.addr
  omega

/-- A store to a surface leaves every other byte alone. -/
theorem State.readByte_storeSurface_outside (s : State) (D : Surface) (p : Nat → Nat → Nat) {a : Nat}
    (h : D.span.holds a = false) : (s.storeSurface D p).readByte a = s.readByte a := by
  rw [Span.holds_eq_false_iff] at h
  exact State.readByte_store_outside _ _ _ _ (by simp only [Surface.span] at h; omega)

/-- A surface reads the same in two states that agree on its bytes. -/
theorem Surface.pix_congr {s t : State} (S : Surface) {y x : Nat} (hy : y < S.h) (hx : x < S.w)
    (h : ∀ a, S.span.holds a = true → t.readByte a = s.readByte a) : S.pix t y x = S.pix s y x :=
  State.memRead_congr fun _ hk => h _ ((Span.holds_iff _ _).2 (S.addr_in_span hy hx hk))

/-- A surface that shares no byte with the stored one reads as before. -/
theorem Surface.pix_storeSurface_apart (s : State) (S D : Surface) (p : Nat → Nat → Nat) {y x : Nat}
    (hy : y < S.h) (hx : x < S.w) (h : S.span.Apart D.span) :
    S.pix (s.storeSurface D p) y x = S.pix s y x :=
  S.pix_congr hy hx fun a ha => s.readByte_storeSurface_outside D p (by
    have := h a; rw [ha] at this; simpa using this)

end Sys2Proof.Machine
end

