-- ==== Sys2Proof/Laws/Checks.lean ====
section
/-! SUPPORT. The laws of the checks, and what a command can do. -/

namespace Sys2Proof.Machine

/-! ## Checks -/

@[simp] theorem require_eq_none {ok : Prop} [Decidable ok] {r : Raise} :
    require ok r = none ↔ ok := by
  unfold require; split <;> simp_all

theorem require_pos {ok : Prop} [Decidable ok] {r : Raise} (h : ok) : require ok r = none := by
  simp [h]

theorem require_neg {ok : Prop} [Decidable ok] {r : Raise} (h : ¬ ok) : require ok r = some r := by
  simp [require, h]

@[simp] theorem firstRaise_nil : firstRaise [] = none := rfl

@[simp] theorem firstRaise_none_cons (l : List (Option Raise)) :
    firstRaise (none :: l) = firstRaise l := rfl

@[simp] theorem firstRaise_some_cons (r : Raise) (l : List (Option Raise)) :
    firstRaise (some r :: l) = some r := rfl

/-- No fault: every check holds. -/
theorem firstRaise_eq_none {l : List (Option Raise)} : firstRaise l = none ↔ ∀ c ∈ l, c = none := by
  simp [firstRaise, List.findSome?_eq_none_iff]

theorem chkNotNull_eq_none {S : Surface} : chkNotNull S = none ↔ S.w ≠ 0 ∧ S.h ≠ 0 := require_eq_none

theorem chkSurface_eq_none {S : Surface} {id : Byte} {s : State} :
    chkSurface S id s = none ↔ S.Placed s := by
  simp [chkSurface, firstRaise_eq_none, Surface.Placed]

theorem chkOverlap_eq_none {A B : Surface} {a b : Byte} :
    chkOverlap A a B b = none ↔ A.span.Apart B.span := by
  simp [chkOverlap, Span.overlaps_eq_false_iff]

theorem chkFiu_eq_none {D : Surface} {id : Byte} {s : State} :
    chkFiu D id s = none ↔ s.NotPresented D := by
  unfold chkFiu State.NotPresented
  rw [require_eq_none, ← Span.overlaps_eq_false_iff]
  cases s.seq.run <;> simp

/-! ## The table -/

/-- What an undisturbed LUTLD loads reads back. -/
theorem State.lutRead_loadLut (s : State) (f : Nat → Half) (i : Half) (h : s.race.tainted = false) :
    (s.loadLut f).lutRead i = f i.toNat := by
  unfold State.loadLut State.lutRead
  simp [h]

/-! ## The shape of a command -/

/-- All that a checked command can do: it takes the first fault, or has its effect and advances. -/
theorem runChecked_cases (checks : List (Option Raise)) (effect s : State) :
    (∃ r, firstRaise checks = some r ∧ runChecked checks effect s = .next (s.takeFault r)) ∨
    (firstRaise checks = none ∧ runChecked checks effect s = .next effect.advance) := by
  unfold runChecked
  cases h : firstRaise checks with
  | some r => exact .inl ⟨r, rfl, rfl⟩
  | none => exact .inr ⟨rfl, rfl⟩

theorem runChecked_pass {checks : List (Option Raise)} {effect s : State}
    (h : ∀ c ∈ checks, c = none) : runChecked checks effect s = .next effect.advance := by
  unfold runChecked; rw [firstRaise_eq_none.2 h]

theorem runChecked_fault {checks : List (Option Raise)} {effect s : State} {r : Raise}
    (h : firstRaise checks = some r) : runChecked checks effect s = .next (s.takeFault r) := by
  unfold runChecked; rw [h]

/-! ## What a run touches -/

/-- Touching bytes disturbs an undisturbed run exactly when the host wrote one of them during the run. -/
theorem State.touch_tainted_iff (s : State) (spans : List Span) :
    (s.touch spans).race.tainted = true ↔
      s.race.tainted = true ∨ ∃ I ∈ s.race.hostWrites, ∃ J ∈ spans, ¬ J.Apart I := by
  simp only [State.touch_race_tainted, Bool.or_eq_true, List.any_eq_true, ← Span.overlaps_eq_false_iff,
    Bool.not_eq_false]
  exact or_congr_right ⟨fun ⟨J, hJ, I, hI, h⟩ => ⟨I, hI, J, hJ, h⟩, fun ⟨I, hI, J, hJ, h⟩ => ⟨J, hJ, I, hI, h⟩⟩

/-- After a command has touched its operands the run is disturbed iff the command is. -/
theorem State.touch_operands_tainted_iff (s : State) (i : Instr) :
    (s.touch ((sourcesOf i ++ destinationsOf i s).map Surface.span)).race.tainted = true ↔
      s.Disturbed i := by
  rw [State.touch_tainted_iff]
  unfold State.Disturbed
  simp only [List.mem_map, exists_exists_and_eq_and]

/-- What the value claims use: an undisturbed command leaves the run undisturbed. -/
theorem State.touch_tainted_of_not_disturbed {s : State} {i : Instr} {l : List Surface}
    (h : ¬ s.Disturbed i) (e : sourcesOf i ++ destinationsOf i s = l) :
    (s.touch (l.map Surface.span)).race.tainted = false := by
  rw [← s.touch_operands_tainted_iff i, e, Bool.not_eq_true] at h; exact h

/-- A run in which the host has written nothing disturbs no command. -/
theorem State.Undisturbed.not_disturbed {s : State} (h : s.Undisturbed) (i : Instr) :
    ¬ s.Disturbed i := by
  simp [State.Disturbed, h.1, h.2]

theorem State.readByte_touch (s : State) (spans : List Span) :
    (s.touch spans).readByte = s.readByte := rfl

theorem State.readByte_takeFault (s : State) (r : Raise) :
    (s.takeFault r).readByte = s.readByte := rfl

theorem State.readByte_advance (s : State) : s.advance.readByte = s.readByte := rfl

/-- A store that advances changes only memory. -/
theorem State.storeSurface_onlyMemoryChanged (s : State) (spans : List Span) (D : Surface)
    (p : Nat → Nat → Nat) :
    s.OnlyMemoryChanged ((s.touch spans).storeSurface D p).advance := by
  unfold State.OnlyMemoryChanged State.storeSurface State.store
  split <;> rfl

end Sys2Proof.Machine
end

