-- ==== Sys2Proof/Laws/Commands.lean ====
section
/-! SUPPORT. What one command can do, said once: the inversion of `exec`. -/

namespace Sys2Proof.Machine

/-- A command that stores the one surface D, after its checks. -/
def Stored (s t : State) (D : Surface) : Prop :=
  D.Placed s ∧ s.NotPresented D ∧
    ∃ spans p, t = ((s.touch spans).storeSurface D p).advance

/-- A checked command that stores one surface: a fault, or the store. -/
theorem runChecked_stored {checks : List (Option Raise)} {s t : State} {spans : List Span}
    {D : Surface} {p : Nat → Nat → Nat} {id id' : Byte}
    (h : runChecked checks ((s.touch spans).storeSurface D p) s = .next t)
    (h1 : chkSurface D id s ∈ checks) (h2 : chkFiu D id' s ∈ checks) :
    (∃ r, t = s.takeFault r) ∨ Stored s t D := by
  obtain ⟨r, _, e⟩ | ⟨hn, e⟩ := runChecked_cases checks ((s.touch spans).storeSurface D p) s
  · rw [e] at h; cases h; exact .inl ⟨r, rfl⟩
  · rw [e] at h; cases h
    rw [firstRaise_eq_none] at hn
    exact .inr ⟨chkSurface_eq_none.1 (hn _ h1), chkFiu_eq_none.1 (hn _ h2), spans, p, rfl⟩

/-- All that a command can do: take a fault, end the run, advance, load the table, store one surface
inside LMEM and outside the presented frames, or store two. -/
theorem exec_cases {i : Instr} {s t : State} (h : exec i s = .next t) :
    (∃ r, t = s.takeFault r) ∨
    (i = .halt ∧ t = s.haltTake) ∨
    (i = .nop ∧ t = s.advance) ∨
    (∃ src spans f, i = .lutld .u16 src 256 256 ∧ t = ((s.touch spans).loadLut f).advance) ∨
    (i ≠ .halt ∧ ∃ D, Stored s t D) ∨
    (i ≠ .halt ∧ ∃ B M : Surface, B.Placed s ∧ M.Placed s ∧ s.NotPresented B ∧ s.NotPresented M ∧
      ∃ spans p q, t = (((s.touch spans).storeSurface B p).storeSurface M q).advance) := by
  cases i with
  | halt => exact .inr (.inl ⟨rfl, by simpa [exec, execHalt] using h.symm⟩)
  | nop => exact .inr (.inr (.inl ⟨rfl, by simpa [exec, execNop] using h.symm⟩))
  | lutld t' src w hh =>
    simp only [exec, execLutld] at h
    generalize hc : [require (w = 256) (raised .v1 opSrc 0 0), require (hh = 256) (raised .v2 opSrc 0 0),
      require (t' = .u16) (raised .v3 opSrc 0 0),
      chkSurface { base := src, w := w, h := hh, fmt := t' } opSrc s] = checks at h
    obtain ⟨r, _, e⟩ | ⟨hn, e⟩ := runChecked_cases checks _ s
    · rw [e] at h; cases h; exact .inl ⟨r, rfl⟩
    · rw [e] at h; cases h
      rw [firstRaise_eq_none, ← hc] at hn
      simp only [List.mem_cons, List.not_mem_nil, or_false, forall_eq_or_imp, forall_eq,
        require_eq_none] at hn
      obtain ⟨rfl, rfl, rfl, -⟩ := hn
      exact .inr (.inr (.inr (.inl ⟨src, _, _, rfl, rfl⟩)))
  | lut t' src w hh dst =>
    simp only [exec, execLut] at h
    obtain e | e := runChecked_stored (id := opDst0) (id' := opDst0) h (by simp) (by simp)
    · exact .inl e
    · exact .inr (.inr (.inr (.inr (.inl ⟨nofun, _, e⟩))))
  | inv t' src w hh dst =>
    simp only [exec, execInv] at h
    obtain e | e := runChecked_stored (id := opDst0) (id' := opDst0) h (by simp) (by simp)
    · exact .inl e
    · exact .inr (.inr (.inr (.inr (.inl ⟨nofun, _, e⟩))))
  | compose t' src w hh dst =>
    simp only [exec, execCompose] at h
    obtain e | e := runChecked_stored (id := opDst0) (id' := opDst0) h (by simp) (by simp)
    · exact .inl e
    · exact .inr (.inr (.inr (.inr (.inl ⟨nofun, _, e⟩))))
  | dith1 t' src w hh dst f =>
    simp only [exec, execDith1] at h
    obtain e | e := runChecked_stored (id := opDst0) (id' := opDst0) h (by simp) (by simp)
    · exact .inl e
    · exact .inr (.inr (.inr (.inr (.inl ⟨nofun, _, e⟩))))
  | dithn t' src w hh dst =>
    simp only [exec, execDithn] at h
    obtain e | e := runChecked_stored (id := opDst0) (id' := opDst0) h (by simp) (by simp)
    · exact .inl e
    · exact .inr (.inr (.inr (.inr (.inl ⟨nofun, _, e⟩))))
  | decomp t' src w hh dstb dstr =>
    simp only [exec, execDecomp] at h
    generalize hc : [chkNotNull _, _, _, _, _, _, _, _, _, _] = checks at h
    obtain ⟨r, _, e⟩ | ⟨hn, e⟩ := runChecked_cases checks _ s
    · rw [e] at h; cases h; exact .inl ⟨r, rfl⟩
    · rw [e] at h; cases h
      rw [firstRaise_eq_none, ← hc] at hn
      simp only [List.mem_cons, List.not_mem_nil, or_false, forall_eq_or_imp, forall_eq,
        chkSurface_eq_none, chkFiu_eq_none] at hn
      obtain ⟨-, -, -, hB, hM, -, -, -, fB, fM⟩ := hn
      exact .inr (.inr (.inr (.inr (.inr ⟨nofun, _, _, hB, hM, fB, fM, _, _, _, rfl⟩))))

/-- A checked command that ends no run has passed its checks. -/
theorem runChecked_completes {checks : List (Option Raise)} {effect s t : State}
    (h : runChecked checks effect s = .next t) (ht : t.ceBusy = true) :
    (∀ c ∈ checks, c = none) ∧ t = effect.advance := by
  obtain ⟨r, -, e⟩ | ⟨hn, e⟩ := runChecked_cases checks effect s
  · rw [e] at h; cases h; simp at ht
  · rw [e] at h; cases h; exact ⟨firstRaise_eq_none.1 hn, rfl⟩

/-- All that a command can do when the run goes on after it: advance, load the table, store its one
destination, or store its two, which share no byte. -/
theorem exec_completes {i : Instr} {s t : State} (h : exec i s = .next t) (ht : t.ceBusy = true) :
    (i = .nop ∧ t = s.advance) ∨
    (∃ f src w hh g, i = .lutld f src w hh ∧
      t = ((s.touch ((sourcesOf i).map Surface.span)).loadLut g).advance) ∨
    (∃ D p, destinationsOf i s = [D] ∧
      t = ((s.touch ((sourcesOf i ++ [D]).map Surface.span)).storeSurface D p).advance) ∨
    ∃ B M p q, destinationsOf i s = [B, M] ∧ B.span.Apart M.span ∧
      t = (((s.touch ((sourcesOf i ++ [B, M]).map Surface.span)).storeSurface B p).storeSurface M
        q).advance := by
  cases i with
  | halt => simp only [exec, execHalt] at h; cases h; simp at ht
  | nop => exact .inl ⟨rfl, by simpa [exec, execNop] using h.symm⟩
  | lutld f src w hh =>
    simp only [exec, execLutld] at h
    exact .inr (.inl ⟨f, src, w, hh, _, rfl, (runChecked_completes h ht).2⟩)
  | lut f src w hh dst =>
    simp only [exec, execLut] at h
    exact .inr (.inr (.inl ⟨_, _, rfl, (runChecked_completes h ht).2⟩))
  | inv f src w hh dst =>
    simp only [exec, execInv] at h
    exact .inr (.inr (.inl ⟨_, _, rfl, (runChecked_completes h ht).2⟩))
  | compose f src w hh dst =>
    simp only [exec, execCompose] at h
    exact .inr (.inr (.inl ⟨_, _, rfl, (runChecked_completes h ht).2⟩))
  | dith1 f src w hh dst k =>
    simp only [exec, execDith1] at h
    exact .inr (.inr (.inl ⟨_, _, rfl, (runChecked_completes h ht).2⟩))
  | dithn f src w hh dst =>
    simp only [exec, execDithn] at h
    exact .inr (.inr (.inl ⟨_, _, rfl, (runChecked_completes h ht).2⟩))
  | decomp f src w hh dstb dstr =>
    simp only [exec, execDecomp] at h
    obtain ⟨hn, e⟩ := runChecked_completes h ht
    have hap := chkOverlap_eq_none.1 (hn (chkOverlap ⟨dstb, w, hh, .u8⟩ opDst0 ⟨dstr, w, hh, .u8⟩ opDst1)
      (by simp))
    exact .inr (.inr (.inr ⟨_, _, _, _, rfl, hap, e⟩))

end Sys2Proof.Machine
end

