-- ==== Sys2Proof/Laws/Compositor.lean ====
section
/-! SUPPORT. The laws of the box filter's sums. -/

namespace Sys2Proof.Machine

/-- The model's sum is the sum over a range. -/
theorem sumBelow_eq (n : Nat) (f : Nat → Nat) : sumBelow n f = ∑ i ∈ Finset.range n, f i := by
  induction n with
  | zero => rfl
  | succ n ih => rw [Finset.sum_range_succ, ← ih]; rfl

/-- The weights of the first k source cells telescope to how much of the output cell they cover. -/
theorem boxWeight_sum_below (n sn j k : Nat) :
    ∑ u ∈ Finset.range k, boxWeight n sn j u = min (k * sn) ((j + 1) * n) - j * n := by
  induction k with
  | zero => simp
  | succ k ih =>
    rw [Finset.sum_range_succ, ih]
    unfold boxWeight
    have h1 : (k + 1) * sn = k * sn + sn := by ring
    have h2 : (j + 1) * n = j * n + n := by ring
    omega

/-- At an unchanged size a source cell is covered by its own output cell only. -/
theorem boxWeight_same (n j u : Nat) : boxWeight n n j u = if u = j then n else 0 := by
  unfold boxWeight
  split
  · subst_vars
    rw [Nat.min_self, Nat.max_self]
    have : (u + 1) * n = u * n + n := by ring
    omega
  · rename_i hne
    rcases Nat.lt_or_gt_of_ne hne with hlt | hgt
    · have : (u + 1) * n ≤ j * n := Nat.mul_le_mul_right n hlt
      omega
    · have : (j + 1) * n ≤ u * n := Nat.mul_le_mul_right n hgt
      omega

end Sys2Proof.Machine
end

