-- ==== Sys2Proof/Laws/Encoding.lean ====
section
/-! SUPPORT. The laws of the encoder: each field of a packed command reads back. -/

namespace Sys2Proof

@[simp] theorem Opcode.ofByte_byte (o : Opcode) : Opcode.ofByte o.byte = some o := by
  cases o <;> decide

theorem Fmt.sf_le (t : Fmt) : t.sf ≤ 1 := by cases t <;> decide

/-- W[0] as a number: FIDX, SF and OPC at their places. -/
theorem packW0_toNat (o : Opcode) (t : Fmt) {f : Nat} (hf : f < 256) :
    (packW0 o t f).toNat = f * 65536 + t.sf * 256 + o.byte.toNat := by
  have ho := o.byte.isLt
  have ht := t.sf_le
  simp only [packW0, BitVec.toNat_append, BitVec.toNat_ofNat]
  rw [Nat.mod_eq_of_lt (show f < 2 ^ 8 by omega), Nat.mod_eq_of_lt (show t.sf < 2 ^ 8 by omega)]
  simp only [Nat.zero_mod, Nat.zero_shiftLeft, Nat.zero_or]
  rw [← Nat.shiftLeft_add_eq_or_of_lt (by omega), ← Nat.shiftLeft_add_eq_or_of_lt (by omega)]
  simp only [Nat.shiftLeft_eq]
  omega

/-- W[2] as a number: SRC_H and SRC_W at their places. -/
theorem packDims_toNat {w h : Nat} (hw : w < 65536) (hh : h < 65536) :
    (packDims w h).toNat = h * 65536 + w := by
  simp only [packDims, BitVec.toNat_append, BitVec.toNat_ofNat]
  rw [← Nat.shiftLeft_add_eq_or_of_lt (by omega)]
  simp only [Nat.shiftLeft_eq]
  omega

theorem packW0_opc (o : Opcode) (t : Fmt) {f : Nat} (hf : f < 256) :
    (packW0 o t f).extractLsb' 0 8 = o.byte := by
  have ho := o.byte.isLt
  apply BitVec.eq_of_toNat_eq
  simp only [BitVec.extractLsb'_toNat, Nat.shiftRight_eq_div_pow, packW0_toNat o t hf]
  omega

theorem packCmd_sf (o : Opcode) (t : Fmt) {f : Nat} (src w h a b : Nat) (hf : f < 256) :
    (packCmd o t f src w h a b).sf = t := by
  have ho := o.byte.isLt
  have h0 : (packCmd o t f src w h a b).w0.toNat = f * 65536 + t.sf * 256 + o.byte.toNat :=
    packW0_toNat o t hf
  have hb : (packCmd o t f src w h a b).w0.getLsbD 8 = decide (t.sf = 1) := by
    rw [BitVec.getLsbD, h0, Nat.testBit_eq_decide_div_mod_eq]
    have ht := t.sf_le
    congr 1
    apply propext
    omega
  rw [CmdWords.sf, hb]
  cases t <;> rfl

theorem packCmd_fidx (o : Opcode) (t : Fmt) {f : Nat} (src w h a b : Nat) (hf : f < 256) :
    (packCmd o t f src w h a b).fidx = f := by
  have ho := o.byte.isLt
  have ht := t.sf_le
  have h0 : (packCmd o t f src w h a b).w0.toNat = f * 65536 + t.sf * 256 + o.byte.toNat :=
    packW0_toNat o t hf
  rw [CmdWords.fidx, BitVec.extractLsb'_toNat, h0, Nat.shiftRight_eq_div_pow]
  omega

theorem packCmd_srcW (o : Opcode) (t : Fmt) (f src : Nat) {w h : Nat} (a b : Nat) (hw : w < 65536)
    (hh : h < 65536) : (packCmd o t f src w h a b).srcW = w := by
  have h2 : (packCmd o t f src w h a b).w2.toNat = h * 65536 + w := packDims_toNat hw hh
  rw [CmdWords.srcW, BitVec.extractLsb'_toNat, h2, Nat.shiftRight_eq_div_pow]
  omega

theorem packCmd_srcH (o : Opcode) (t : Fmt) (f src : Nat) {w h : Nat} (a b : Nat) (hw : w < 65536)
    (hh : h < 65536) : (packCmd o t f src w h a b).srcH = h := by
  have h2 : (packCmd o t f src w h a b).w2.toNat = h * 65536 + w := packDims_toNat hw hh
  rw [CmdWords.srcH, BitVec.extractLsb'_toNat, h2, Nat.shiftRight_eq_div_pow]
  omega

theorem packCmd_w1 (o : Opcode) (t : Fmt) (f : Nat) {src : Nat} (w h a b : Nat)
    (hs : src < 4294967296) : (packCmd o t f src w h a b).w1.toNat = src := by
  simp only [packCmd, BitVec.toNat_ofNat]; omega

theorem packCmd_w3 (o : Opcode) (t : Fmt) (f src w h : Nat) {a : Nat} (b : Nat)
    (ha : a < 4294967296) : (packCmd o t f src w h a b).w3.toNat = a := by
  simp only [packCmd, BitVec.toNat_ofNat]; omega

theorem packCmd_w4 (o : Opcode) (t : Fmt) (f src w h a : Nat) {b : Nat}
    (hb : b < 4294967296) : (packCmd o t f src w h a b).w4.toNat = b := by
  simp only [packCmd, BitVec.toNat_ofNat]; omega

end Sys2Proof
end

