-- ==== Sys2Proof/Laws/Sequencer.lean ====
section
/-! SUPPORT. What the sequencer's operations can do, said once. -/

namespace Sys2Proof.Machine

/-- All that a tick can do. -/
theorem State.seqTick_cases (s : State) :
    (s.seq.run = false ∧ s.seqTick = s) ∨
    (s.seq.run = true ∧ s.seq.elapsed.toNat + 1 < s.seq.interval.toNat ∧
      s.seqTick = { s with seq := { s.seq with elapsed := s.seq.elapsed + 1#32 } }) ∨
    (s.seq.run = true ∧ s.seq.interval.toNat ≤ s.seq.elapsed.toNat + 1 ∧
      s.seqCfg.passes.toNat ≠ 0 ∧
      (s.seq.shown + 1#32).toNat = s.seq.n.toNat * s.seqCfg.passes.toNat ∧
      s.seqTick = s.seqFinish (s.seq.shown + 1#32)) ∨
    (s.seq.run = true ∧ s.seq.interval.toNat ≤ s.seq.elapsed.toNat + 1 ∧
      ¬ (s.seqCfg.passes.toNat ≠ 0 ∧
        (s.seq.shown + 1#32).toNat = s.seq.n.toNat * s.seqCfg.passes.toNat) ∧
      s.seqTick = s.seqNextFrame (s.seq.shown + 1#32)) := by
  unfold State.seqTick State.seqBoundary
  cases hr : s.seq.run with
  | false => simp
  | true =>
    by_cases he : s.seq.elapsed.toNat + 1 < s.seq.interval.toNat
    · simp [he]
    · by_cases hp : s.seqCfg.passes.toNat ≠ 0 ∧
        (s.seq.shown + 1#32).toNat = s.seq.n.toNat * s.seqCfg.passes.toNat
      · exact .inr (.inr (.inl ⟨rfl, by omega, hp.1, hp.2, by
          rw [if_neg (by simp), if_neg he, if_pos hp]⟩))
      · exact .inr (.inr (.inr ⟨rfl, by omega, hp, by
          rw [if_neg (by simp), if_neg he, if_neg hp]⟩))

/-- When a sequencer START is accepted. -/
theorem State.seqRefusal_eq_zero {s : State} :
    s.seqRefusal = 0 ↔ s.cfg.frames.toNat ≠ 0 ∧ s.cfg.canvasW.toNat ≠ 0 ∧ s.cfg.canvasH.toNat ≠ 0 ∧
      s.seqCfg.base.toNat + s.cfg.frames.toNat * s.cfg.canvasW.toNat * s.cfg.canvasH.toNat
        ≤ s.params.lmemSize := by
  unfold State.seqRefusal
  split_ifs <;> simp_all
  omega

theorem State.seqRefusal_le (s : State) : s.seqRefusal ≤ 3 := by
  unfold State.seqRefusal
  split_ifs <;> omega

/-- All that a sequencer START can do. -/
theorem State.seqStart_cases (s : State) :
    (s.seqRefusal = 0 ∧ s.seqStart = s.seqStop.seqLatch) ∨
    (s.seqRefusal ≠ 0 ∧ s.seqStart = s.seqStop.seqRefuse s.seqRefusal) := by
  unfold State.seqStart
  split
  · exact .inl ⟨‹_›, rfl⟩
  · exact .inr ⟨‹_›, rfl⟩

theorem seqIntervalOf_pos (d n m : Nat) : 1 ≤ seqIntervalOf d n m := by
  unfold seqIntervalOf; omega

/-- The interval fits its register: it is at most max(D, MIN, 1) (00_scope.md R11). -/
theorem seqIntervalOf_le {d n m : Nat} (hn : 1 ≤ n) : seqIntervalOf d n m ≤ max (max d m) 1 := by
  have h : (d + n - 1) / n ≤ d := by
    rw [← Nat.lt_succ_iff, Nat.div_lt_iff_lt_mul (by omega)]
    have : d * 1 ≤ d * n := Nat.mul_le_mul_left d hn
    rw [Nat.succ_mul]
    omega
  unfold seqIntervalOf
  omega

/-- The latched interval as a number. -/
theorem State.seqLatch_interval_toNat (s : State) (hn : s.cfg.frames.toNat ≠ 0) :
    s.seqLatch.seq.interval.toNat =
      seqIntervalOf s.seqCfg.duration.toNat s.cfg.frames.toNat s.seqCfg.minInterval.toNat := by
  have h := seqIntervalOf_le (d := s.seqCfg.duration.toNat) (m := s.seqCfg.minInterval.toNat)
    (Nat.one_le_iff_ne_zero.2 hn)
  have h1 := s.seqCfg.duration.isLt
  have h2 := s.seqCfg.minInterval.isLt
  simp only [State.seqLatch, BitVec.toNat_ofNat]
  rw [Nat.mod_eq_of_lt (by omega)]

end Sys2Proof.Machine
end

