-- ==== Sys2Proof/Laws/Ports.lean ====
section
/-! SUPPORT. What the register map and the ports can do, said once. -/

namespace Sys2Proof.Machine

/-! ## Registers -/

/-- An offset names the register that has it. -/
@[simp] theorem Reg.ofOffset_offset (r : Reg) : Reg.ofOffset r.offset = some r := by
  cases r <;> decide

theorem Reg.ofOffset_eq_some {o : Nat} {r : Reg} (h : Reg.ofOffset o = some r) : r.offset = o := by
  simpa using List.find?_some h

theorem State.setCfg_cases (s : State) (c : CeConfig) :
    (s.ceBusy = true ∧ s.setCfg c = s.setIrq .lockViol) ∨
    (s.ceBusy = false ∧ s.setCfg c = { s with cfg := c }) := by
  unfold State.setCfg
  cases h : s.ceBusy <;> simp

theorem State.setSeqCfg_cases (s : State) (c : SeqConfig) :
    (s.seq.run = true ∧ s.setSeqCfg c = s.setIrq .lockViol) ∨
    (s.seq.run = false ∧ s.setSeqCfg c = { s with seqCfg := c }) := by
  unfold State.setSeqCfg
  cases h : s.seq.run <;> simp

theorem State.startRun_cases (s : State) :
    (s.ceBusy = true ∧ s.startRun = s.setIrq .startIgn) ∨
    (s.ceBusy = false ∧ s.startRun = s.beginRun) := by
  unfold State.startRun
  cases h : s.ceBusy <;> simp

theorem State.requestAbort_cases (s : State) :
    (s.ceBusy = true ∧ s.requestAbort = { s with abortPend := true }) ∨
    (s.ceBusy = false ∧ s.requestAbort = s) := by
  unfold State.requestAbort
  cases h : s.ceBusy <;> simp

/-- All that a write to CTRL can do. -/
theorem State.writeCtrl_cases (s : State) (v : Word) :
    s.writeCtrl v = s ∨ s.writeCtrl v = s.requestAbort ∨ s.writeCtrl v = s.startRun ∨
      s.writeCtrl v = s.requestAbort.startRun := by
  unfold State.writeCtrl
  cases v.getLsbD 0 <;> cases v.getLsbD 1 <;> simp

/-- All that a write to SEQ_CTRL can do. -/
theorem State.writeSeqCtrl_cases (s : State) (v : Word) :
    s.writeSeqCtrl v = s ∨ s.writeSeqCtrl v = s.seqStop ∨ s.writeSeqCtrl v = s.seqStart ∨
      s.writeSeqCtrl v = s.seqStop.seqStart := by
  unfold State.writeSeqCtrl
  cases v.getLsbD 0 <;> cases v.getLsbD 1 <;> simp

/-- All that a register write can do. -/
theorem State.writeReg_cases (s : State) (r : Reg) (v : Word) :
    s.writeReg r v = s ∨
    (r = .ctrl ∧ s.writeReg r v = s.writeCtrl v) ∨
    (r = .seqCtrl ∧ s.writeReg r v = s.writeSeqCtrl v) ∨
    (∃ c, s.writeReg r v = s.setCfg c) ∨
    (∃ c, s.writeReg r v = s.setSeqCfg c) ∨
    (∃ b, s.writeReg r v = s.clearIrq b) ∨
    (∃ b, s.writeReg r v = { s with irqEnable := b }) := by
  cases r <;> simp only [State.writeReg, reduceCtorEq, false_and, true_and, false_or, true_or] <;>
    first
    | exact .inl rfl
    | exact .inr (.inl ⟨_, rfl⟩)
    | exact .inr (.inr (.inl ⟨_, rfl⟩))
    | exact .inr (.inr (.inr (.inl ⟨_, rfl⟩)))
    | exact .inr (.inr (.inr (.inr ⟨_, rfl⟩)))
    | simp

/-- All that a write at an offset can do. -/
theorem State.writeOffset_cases (s : State) (o : Nat) (v : Word) :
    s.writeOffset o v = s ∨ ∃ r, r.offset = o ∧ s.writeOffset o v = s.writeReg r v := by
  unfold State.writeOffset
  cases h : Reg.ofOffset o with
  | none => exact .inl rfl
  | some r => exact .inr ⟨r, Reg.ofOffset_eq_some h, rfl⟩

/-! ## The ports -/

/-- All that a host register read can do when it answers. -/
theorem hostRegRead_next {n : Width} {a : Nat} {s t : State} (h : hostRegRead n a s = .next t) :
    ∃ o, t = s.observe o := by
  unfold hostRegRead at h
  split at h
  · cases h
  · cases h; exact ⟨_, rfl⟩

/-- All that a host register write can do when it is carried out. -/
theorem hostRegWrite_next {n : Width} {a : Nat} {v : Word} {s t : State}
    (h : hostRegWrite n a v s = .next t) :
    n = .b4 ∧ s.params.regBase ≤ a ∧ t = s.writeOffset (a - s.params.regBase) v := by
  unfold hostRegWrite at h
  split at h
  · cases h
  · rename_i hp
    cases h
    unfold State.portRefusal at hp
    split at hp
    · cases hp
    · split at hp
      · cases hp
      · rename_i h1 h2
        exact ⟨by_contra fun hn => h2 (.inl hn), by omega, rfl⟩

/-! ## What a host memory access notes -/

theorem heldBy_iff (spans : List Span) (a : Nat) :
    heldBy spans a = true ↔ ∃ I ∈ spans, I.holds a = true := by
  simp [heldBy]

theorem Span.mem_addresses (I : Span) (a : Nat) : a ∈ I.addresses ↔ I.holds a = true := by
  simp only [Span.addresses, List.mem_map, List.mem_range, Span.holds_iff]
  exact ⟨by rintro ⟨k, hk, rfl⟩; omega, fun h => ⟨a - I.lo, by omega, by omega⟩⟩

/-- When a byte of a host access races with the run. -/
theorem State.racesAt_iff (s : State) (races : List Nat) (a : Nat) :
    s.racesAt races a = true ↔
      s.ceBusy = true ∧ (a ∈ races ∨ ∃ I ∈ s.race.touched, I.holds a = true) := by
  simp [State.racesAt, heldBy_iff]

/-- Which bytes a host access makes the model await. -/
theorem State.mem_await_awaited (s : State) (I : Span) (races : List Nat) (a : Nat) :
    a ∈ (s.await I races).race.awaited ↔
      (s.ceBusy = true ∧ I.holds a = true ∧ a ∈ races ∧ heldBy s.race.touched a = false) ∨
        a ∈ s.race.awaited := by
  have e : (s.await I races).race.awaited = (I.addresses.filter fun a =>
    s.racesAt races a && !heldBy s.race.touched a) ++ s.race.awaited := rfl
  rw [e, List.mem_append, List.mem_filter, Span.mem_addresses]
  cases h : heldBy s.race.touched a <;> cases hb : s.ceBusy <;> simp [State.racesAt, h, hb]

/-- An idle engine makes the model await nothing. -/
theorem State.await_idle (s : State) (I : Span) (races : List Nat) (h : s.ceBusy = false) :
    (s.await I races).race.awaited = s.race.awaited := by
  have e : (s.await I races).race.awaited = (I.addresses.filter fun a =>
    s.racesAt races a && !heldBy s.race.touched a) ++ s.race.awaited := rfl
  simp [e, State.racesAt, h]

/-- All that a host memory read can do when it answers. -/
theorem hostMemRead_next {n : Width} {a : Nat} {races : List Nat} {s t : State}
    (h : hostMemRead n a races s = .next t) :
    ∃ o, t = ((s.await { lo := a, len := n.bytes } races).drawFree.observe o) := by
  unfold hostMemRead at h
  split at h
  · cases h
  · cases h; exact ⟨_, rfl⟩

theorem State.memRefusal_eq_none {s : State} {n : Width} {a : Nat} :
    s.memRefusal n a = none ↔ a % n.bytes = 0 ∧ a + n.bytes ≤ s.params.lmemSize := by
  unfold State.memRefusal
  split_ifs <;> simp <;> omega

@[simp] theorem State.overwritePresented_ceBusy (s : State) (I : Span) :
    (s.overwritePresented I).ceBusy = s.ceBusy := by
  unfold State.overwritePresented; split <;> rfl

@[simp] theorem State.overwritePresented_race (s : State) (I : Span) :
    (s.overwritePresented I).race = s.race := by
  unfold State.overwritePresented; split <;> rfl

/-- What a host write notes about the run and the presented frames changes nothing else. -/
theorem State.noted_eq (s : State) (I : Span) (races : List Nat) :
    ∃ r l, ((s.overwritePresented I).await I races).disturb I races = { s with race := r, stale := l } ∧
      r.touched = s.race.touched ∧ r.awaited = (s.await I races).race.awaited ∧
      (s.race.tainted = true → r.tainted = true) := by
  unfold State.overwritePresented State.disturb
  split_ifs <;> exact ⟨_, _, rfl, rfl, rfl, by simp⟩

/-- What a host write keeps for the display: the overwritten presented bytes, when a frame is presented. -/
theorem State.noted_stale (s : State) (I : Span) (races : List Nat) :
    (((s.overwritePresented I).await I races).disturb I races).stale =
      if s.seq.run then s.presentedBytes I ++ s.stale else s.stale := by
  unfold State.overwritePresented State.disturb
  split_ifs <;> rfl

/-- All that a host memory write can do when it is carried out. -/
theorem hostMemWrite_next {n : Width} {a : Nat} {v : Word} {races : List Nat} {s t : State}
    (h : hostMemWrite n a v races s = .next t) :
    a + n.bytes ≤ s.params.lmemSize ∧
      ∃ r l, t = ({ s with race := r, stale := l } : State).putBytes a n.bytes (leByte v.toNat) ∧
        r.touched = s.race.touched ∧
        r.awaited = (s.await { lo := a, len := n.bytes } races).race.awaited ∧
        (s.race.tainted = true → r.tainted = true) := by
  unfold hostMemWrite at h
  split at h
  · cases h
  · rename_i hp
    cases h
    obtain ⟨r, l, e, hr⟩ := s.noted_eq { lo := a, len := n.bytes } races
    exact ⟨(State.memRefusal_eq_none.1 hp).2, r, l, by rw [e], hr⟩

/-- All that a display read can do when it answers. -/
theorem displayRead_next {y x : Nat} {s t : State} (h : displayRead y x s = .next t) :
    (∃ o, t = s.observe o) ∨ ∃ o, t = s.drawFree.observe o := by
  unfold displayRead at h
  split_ifs at h
  · cases h; exact .inl ⟨_, rfl⟩
  · cases h; exact .inr ⟨_, rfl⟩

end Sys2Proof.Machine
end

