-- ==== Sys2Proof/Laws/Engine.lean ====
section
/-! SUPPORT. What one step can do, said once, and the canonical form of memory after each operation. -/

namespace Sys2Proof.Machine

/-! ## Steps -/

/-- All that fetching, decoding and executing can do. -/
theorem runCommand_next {s t : State} (h : runCommand s = .next t) :
    (∃ r, s.fetchCheck = some r ∧ t = s.takeFault r) ∨
    (∃ e, s.fetchCheck = none ∧ decode s.fetchWords = .error e ∧
      t = (s.touch [s.cmdSpan]).takeFault (illegalRaise e)) ∨
    (∃ i, s.fetchCheck = none ∧ decode s.fetchWords = .ok i ∧ exec i (s.touch [s.cmdSpan]) = .next t) := by
  unfold runCommand decodeExec at h
  split at h
  · cases h; exact .inl ⟨_, ‹_›, rfl⟩
  · split at h
    · cases h; exact .inr (.inl ⟨_, ‹_›, ‹_›, rfl⟩)
    · exact .inr (.inr ⟨_, ‹_›, ‹_›, h⟩)

/-- When the check at the end of a run lets a step go on. -/
theorem settled_eq_next {o : Host.Outcome State Fault Refusal} {t : State} :
    settled o = .next t ↔ o = .next t ∧ (t.ceBusy = false → t.race.awaited = []) := by
  unfold settled
  split
  · rename_i u
    split_ifs with h
    · simp only [Host.Outcome.next.injEq, false_iff, not_and]
      rintro rfl; simpa using h
    · simp only [Host.Outcome.next.injEq]
      exact ⟨by rintro rfl; exact ⟨rfl, by simpa using h⟩, fun h => h.1⟩
  · simp
  · simp

/-- All that a step of the command engine can do. -/
theorem ceStep_next {s t : State} (h : ceStep s = .next t) :
    (s.ceBusy = false ∧ t = s) ∨
    (s.ceBusy = true ∧ (t.ceBusy = false → t.race.awaited = []) ∧
      ((s.abortPend = true ∧ t = s.abortTake) ∨
        (s.abortPend = false ∧ runCommand s = .next t))) := by
  unfold ceStep at h
  split_ifs at h with h1 h2
  · cases h; exact .inl ⟨h1, rfl⟩
  · obtain ⟨h, ha⟩ := settled_eq_next.1 h
    cases h; exact .inr ⟨by simpa using h1, ha, .inl ⟨h2, rfl⟩⟩
  · obtain ⟨h, ha⟩ := settled_eq_next.1 h
    exact .inr ⟨by simpa using h1, ha, .inr ⟨by simpa using h2, h⟩⟩

/-- No command makes the model await a byte. -/
theorem exec_awaited_nil {i : Instr} {s t : State} (h : exec i s = .next t)
    (hs : s.race.awaited = []) : t.race.awaited = [] := by
  obtain ⟨r, rfl⟩ | ⟨-, rfl⟩ | ⟨-, rfl⟩ | ⟨src, spans, f, -, rfl⟩ | ⟨-, D, -, -, spans, p, rfl⟩ |
    ⟨-, B, M, -, -, -, -, spans, p, q, rfl⟩ := exec_cases h <;> simp [hs]

/-- All that a step can do: the engine's when nothing is pending, else the first pending one. -/
theorem step_next {s t : State} (h : step s = .next t) :
    (s.schedule = [] ∧ ceStep s = .next t) ∨
    ∃ e rest, s.schedule = e :: rest ∧ agentStep e { s with schedule := rest } = .next t := by
  unfold step blockStep at h
  split at h
  · exact .inl ⟨‹_›, h⟩
  · exact .inr ⟨_, _, ‹_›, h⟩

/-! ## The canonical form -/

theorem State.afterReset_wf (p : Params) (d : Nat) (l : List Event) (o : List Observation) :
    Memory.wf (State.afterReset p d l o).lmem := List.Pairwise.nil

theorem State.putBytes_wf {s : State} (h : Memory.wf s.lmem) (lo len : Nat) (g : Nat → Byte) :
    Memory.wf (s.putBytes lo len g).lmem := Memory.wf_splice h lo len g

theorem State.store_wf {s : State} (h : Memory.wf s.lmem) (lo len : Nat) (g : Nat → Byte) :
    Memory.wf (s.store lo len g).lmem := by
  obtain ⟨g', e⟩ := s.store_lmem_cases lo len g
  rw [e]; exact Memory.wf_splice h lo len g'

theorem State.storeSurface_wf {s : State} (h : Memory.wf s.lmem) (D : Surface) (p : Nat → Nat → Nat) :
    Memory.wf (s.storeSurface D p).lmem := State.store_wf h _ _ _

theorem State.placeCommand_wf {s : State} (h : Memory.wf s.lmem) (b : Nat → Byte) :
    Memory.wf (s.placeCommand b).lmem := Memory.wf_splice h _ _ _

theorem hostMemWrite_wf {n : Width} {a : Nat} {v : Word} {races : List Nat} {s t : State}
    (h : hostMemWrite n a v races s = .next t) (hs : Memory.wf s.lmem) : Memory.wf t.lmem := by
  obtain ⟨-, r, l, rfl, -⟩ := hostMemWrite_next h
  exact Memory.wf_splice hs _ _ _

/-- Every command keeps the canonical form. -/
theorem exec_wf {i : Instr} {s t : State} (h : exec i s = .next t) (hs : Memory.wf s.lmem) :
    Memory.wf t.lmem := by
  obtain ⟨r, rfl⟩ | ⟨-, rfl⟩ | ⟨-, rfl⟩ | ⟨src, spans, f, -, rfl⟩ | ⟨-, D, -, -, spans, p, rfl⟩ |
    ⟨-, B, M, -, -, -, -, spans, p, q, rfl⟩ := exec_cases h
  · exact hs
  · exact hs
  · exact hs
  · simpa using hs
  · exact State.storeSurface_wf (s := s.touch spans) hs D p
  · exact State.storeSurface_wf (State.storeSurface_wf (s := s.touch spans) hs B p) M q

end Sys2Proof.Machine
end

