-- ==== Sys2Proof/Laws/PerInstr.lean ====
section
/-! SUPPORT. A statement about every command as syntax, one lemma per constructor: the encoder writes the
row's match value under the row's mask, and 0 in every word the row reserves (30_encoding.md R71). -/

namespace Sys2Proof

/-- A row without SF matches with SF = 0, a row with SF with either. -/
theorem packW0_match (o : Opcode) (t : Fmt) (h : o = .halt ∨ o = .nop → t = .u8) :
    packW0 o t 0 &&& o.mask = o.pattern := by
  revert h
  cases o <;> cases t <;> decide

set_option maxRecDepth 10000 in
/-- DITH1 matches with every frame index. -/
theorem packW0_match_dith1 (t : Fmt) :
    ∀ f < 256, packW0 .dith1 t f &&& Opcode.mask .dith1 = Opcode.pattern .dith1 := by
  cases t <;> decide

namespace Laws.EncodeMatch

/-- The words of the encoder match the command's row of the opcode table (30_encoding.md R71). -/
def Statement (i : Instr) : Prop :=
  i.WellFormed → (encode i).w0 &&& i.opcode.mask = i.opcode.pattern ∧
    ∀ k ∈ i.opcode.reservedWords, (encode i).word k = 0

theorem halt : Statement .halt := fun _ => by decide

theorem nop : Statement .nop := fun _ => by decide

theorem lutld (t : Fmt) (src w h : Nat) : Statement (.lutld t src w h) := fun _ =>
  ⟨packW0_match .lutld t (by simp), by simp [Instr.opcode, Opcode.reservedWords, encode, packCmd, CmdWords.word]⟩

theorem lut (t : Fmt) (src w h dst : Nat) : Statement (.lut t src w h dst) := fun _ =>
  ⟨packW0_match .lut t (by simp), by simp [Instr.opcode, Opcode.reservedWords, encode, packCmd, CmdWords.word]⟩

theorem inv (t : Fmt) (src w h dst : Nat) : Statement (.inv t src w h dst) := fun _ =>
  ⟨packW0_match .inv t (by simp), by simp [Instr.opcode, Opcode.reservedWords, encode, packCmd, CmdWords.word]⟩

theorem compose (t : Fmt) (src w h dst : Nat) : Statement (.compose t src w h dst) := fun _ =>
  ⟨packW0_match .compose t (by simp), by simp [Instr.opcode, Opcode.reservedWords, encode, packCmd, CmdWords.word]⟩

theorem decomp (t : Fmt) (src w h dstb dstr : Nat) : Statement (.decomp t src w h dstb dstr) := fun _ =>
  ⟨packW0_match .decomp t (by simp), by simp [Instr.opcode, Opcode.reservedWords, encode, packCmd, CmdWords.word]⟩

theorem dith1 (t : Fmt) (src w h dst f : Nat) : Statement (.dith1 t src w h dst f) := fun hw => by
  simp only [Instr.WellFormed, Instr.wellFormed, decide_eq_true_eq] at hw
  exact ⟨packW0_match_dith1 t f hw.2.2,
    by simp [Instr.opcode, Opcode.reservedWords, encode, packCmd, CmdWords.word]⟩

theorem dithn (t : Fmt) (src w h dst : Nat) : Statement (.dithn t src w h dst) := fun _ =>
  ⟨packW0_match .dithn t (by simp), by simp [Instr.opcode, Opcode.reservedWords, encode, packCmd, CmdWords.word]⟩

end Laws.EncodeMatch

end Sys2Proof
end

