-- ==== Sys2Proof/Machine/AsmText.lean ====
section
/-! DEFINITION. The text of a command list (30_encoding.md R74, R75): one statement per line, comments
after a semicolon, decimal and hex numbers. A text is a list of characters. What R74 leaves open of the
text (spaces, the names of labels, the case of hex digits) is fixed in log entry 20. -/

namespace Sys2Proof.Machine

/-- The parts of a text between the occurrences of a character. -/
def splitChar (c : Char) (cs : List Char) : List (List Char) :=
  match cs with
  | [] => [[]]
  | d :: rest =>
    if d = c then [] :: splitChar c rest
    else
      match splitChar c rest with
      | [] => [[d]]
      | part :: parts => (d :: part) :: parts

/-- A character that only separates: a space, a tab or a carriage return. -/
def isBlank (c : Char) : Bool := c = ' ' || c = '\t' || c = '\r'

/-- A text without the blanks at its two ends. -/
def trimBlanks (cs : List Char) : List Char :=
  ((cs.dropWhile isBlank).reverse.dropWhile isBlank).reverse

/-- The value of a digit in a base of at most 16. -/
def digitValue (base : Nat) (c : Char) : Option Nat :=
  let v :=
    if '0' ≤ c ∧ c ≤ '9' then c.toNat - 48
    else if 'a' ≤ c ∧ c ≤ 'f' then c.toNat - 87
    else if 'A' ≤ c ∧ c ≤ 'F' then c.toNat - 55
    else 16
  if v < base then some v else none

/-- The number that digits spell after the value `acc`. -/
def digitsFrom (base acc : Nat) (cs : List Char) : Option Nat :=
  match cs with
  | [] => some acc
  | c :: rest => (digitValue base c).bind fun v => digitsFrom base (acc * base + v) rest

/-- A number: decimal, or hex with 0x (30_encoding.md R74). -/
def parseNumber (cs : List Char) : Option Nat :=
  match cs with
  | [] => none
  | ['0', 'x'] => none
  | '0' :: 'x' :: digits => digitsFrom 16 0 digits
  | digits => digitsFrom 10 0 digits

/-- A name that a label may have: letters, digits and underscores, no digit first. -/
def isLabelName (cs : List Char) : Bool :=
  match cs with
  | [] => false
  | c :: rest => (c.isAlpha || c = '_') && rest.all fun d => d.isAlphanum || d = '_'

/-- An operand: a number, or the name of a label with the address it binds. -/
def parseOperand (labels : List Char → Option Nat) (cs : List Char) : Option Nat :=
  if isLabelName cs then labels cs else parseNumber cs

/-- The values of the operands, in their order; `none` where one of them has none. -/
def operandValues (labels : List Char → Option Nat) (parts : List (List Char)) : Option (List Nat) :=
  match parts with
  | [] => some []
  | part :: rest =>
    (parseOperand labels (trimBlanks part)).bind fun n => (operandValues labels rest).map (n :: ·)

/-- The operands of a statement, separated by commas. -/
def parseOperands (labels : List Char → Option Nat) (cs : List Char) : Option (List Nat) :=
  if trimBlanks cs = [] then some [] else operandValues labels (splitChar ',' cs)

/-- The element type that a mnemonic's suffix names (30_encoding.md R74). -/
def parseFmt (cs : List Char) : Option Fmt :=
  if cs = ['u', '8'] then some .u8
  else if cs = ['u', '1', '6'] then some .u16
  else none

/-- A mnemonic that takes an element type, with its operands: a command of R74's table, or a
pseudo-instruction of R75. -/
def typedStatement (m : List Char) (t : Fmt) (ops : List Nat) : Option (List Instr) :=
  if m = ['L', 'U', 'T', 'L', 'D'] then
    match ops with
    | [src, w, h] => some [.lutld t src w h]
    | _ => none
  else if m = ['L', 'U', 'T'] then
    match ops with
    | [src, w, h, dst] => some [.lut t src w h dst]
    | _ => none
  else if m = ['I', 'N', 'V'] then
    match ops with
    | [src, w, h, dst] => some [.inv t src w h dst]
    | _ => none
  else if m = ['C', 'O', 'M', 'P', 'O', 'S', 'E'] then
    match ops with
    | [src, w, h, dst] => some [.compose t src w h dst]
    | _ => none
  else if m = ['D', 'E', 'C', 'O', 'M', 'P'] then
    match ops with
    | [src, w, h, dstb, dstr] => some [.decomp t src w h dstb dstr]
    | _ => none
  else if m = ['D', 'I', 'T', 'H', '1'] then
    match ops with
    | [src, w, h, dst, f] => some [.dith1 t src w h dst f]
    | _ => none
  else if m = ['D', 'I', 'T', 'H', 'N'] then
    match ops with
    | [src, w, h, dst] => some [.dithn t src w h dst]
    | _ => none
  else if m = ['T', 'O', 'N', 'E'] then
    match ops with
    | [src, w, h, tmp, dst] => some (pseudoTone t src w h tmp dst)
    | _ => none
  else if m = ['P', 'R', 'I', 'N', 'T'] then
    match ops with
    | [src, w, h, t1, t2, canvas, cw, ch, frames] =>
      some (pseudoPrint t src w h t1 t2 canvas cw ch frames)
    | _ => none
  else none

/-- The statements of a mnemonic and its operands: `.org`, `.cmd`, HALT and NOP take no element type,
every other mnemonic takes one, and each takes every one (30_encoding.md R74). -/
def parseMnemonic (m : List Char) (ops : List Nat) : Option (List Stmt) :=
  if m = ['.', 'o', 'r', 'g'] then
    match ops with
    | [a] => some [.org a]
    | _ => none
  else if m = ['.', 'c', 'm', 'd'] then
    match ops with
    | [w0, w1, w2, w3, w4, w5, w6, w7] =>
      if ∀ w ∈ ops, w < 4294967296 then
        some [.cmd ⟨.ofNat 32 w0, .ofNat 32 w1, .ofNat 32 w2, .ofNat 32 w3, .ofNat 32 w4, .ofNat 32 w5,
          .ofNat 32 w6, .ofNat 32 w7⟩]
      else none
    | _ => none
  else if m = ['H', 'A', 'L', 'T'] then
    if ops = [] then some [.instr .halt] else none
  else if m = ['N', 'O', 'P'] then
    if ops = [] then some [.instr .nop] else none
  else
    match splitChar '.' m with
    | [name, suffix] =>
      (parseFmt suffix).bind fun t => (typedStatement name t ops).map fun is => is.map Stmt.instr
    | _ => none

/-- One line: nothing, a label, or a mnemonic and its operands (30_encoding.md R74). DESIGN CHOICE (log
entry 20): a label stands on a line of its own, so `loop: NOP` is refused. The address of an
`.org` is a number, since labels stand for addresses that `.org` decides. -/
def parseLine (labels : List Char → Option Nat) (line : List Char) : Option (List Stmt) :=
  let text := trimBlanks (line.takeWhile fun c => c ≠ ';')
  let m := text.takeWhile fun c => !isBlank c
  let visible := if m = ['.', 'o', 'r', 'g'] then fun _ => none else labels
  if text = [] then some []
  else if text.getLast? = some ':' then
    if isLabelName text.dropLast then some [.label (String.ofList text.dropLast)] else none
  else
    (parseOperands visible (text.dropWhile fun c => !isBlank c)).bind (parseMnemonic m)

/-- The statements of the lines; `none` where one of them is no statement. -/
def parseLines (labels : List Char → Option Nat) (lines : List (List Char)) : Option (List Stmt) :=
  match lines with
  | [] => some []
  | line :: rest =>
    (parseLine labels line).bind fun stmts => (parseLines labels rest).map (stmts ++ ·)

/-- The address that a list of bound labels gives a name. -/
def labelAddress (bound : List (String × Nat)) (name : List Char) : Option Nat :=
  match bound with
  | [] => none
  | (n, a) :: rest => if n = String.ofList name then some a else labelAddress rest name

/-- Assembling a text: its commands with their addresses, from address 0 until an `.org` names another;
`none` where the assembler refuses. The first reading finds the labels' addresses, which no operand
decides; the second puts them where operands name them. A label bound twice is refused. -/
def assembleText (text : List Char) : Option (List (Nat × CmdWords)) :=
  let lines := splitChar '\n' text
  (parseLines (fun _ => some 0) lines).bind fun first =>
    let bound := labelsFrom 0 first
    if (bound.map Prod.fst).Nodup then
      (parseLines (labelAddress bound) lines).bind (assembleFrom 0)
    else none

end Sys2Proof.Machine
end

