-- ==== Sys2Proof/Tests/Slice0.lean ====
section
/-! SUPPORT. Tests: the checks of WellFormed, words written out from the encoding tables, one step of each
command from the vectors of 95_test_vectors.md, and a witness for every statement that has hypotheses. -/

namespace Sys2Proof.Tests

open Sys2Proof Sys2Proof.Machine

/-! ## WellFormed refuses what R74 refuses -/

theorem test_address_too_wide : ¬ (Instr.lut .u8 4294967296 1 1 0).WellFormed := by decide

theorem test_destination_too_wide : ¬ (Instr.decomp .u16 0 1 1 0 4294967296).WellFormed := by decide

theorem test_width_too_wide : ¬ (Instr.inv .u8 0 65536 1 0).WellFormed := by decide

theorem test_height_too_wide : ¬ (Instr.lutld .u16 0 256 65536).WellFormed := by decide

theorem test_frame_index_too_wide : ¬ (Instr.dith1 .u16 0 1 1 0 256).WellFormed := by decide

/-- R74 refuses no format. -/
theorem test_wrong_format_is_well_formed : (Instr.decomp .u8 0 1 1 0 0).WellFormed := by decide

/-! ## Decoding of words written out by hand from R67 and R71 -/

theorem test_decode_halt : decode ⟨0x00000001, 0, 0, 0, 0, 0, 0, 0⟩ = .ok .halt := by decide

theorem test_decode_nop : decode ⟨0x00000002, 0, 0, 0, 0, 0, 0, 0⟩ = .ok .nop := by decide

theorem test_decode_lutld :
    decode ⟨0x00000110, 0x00001000, 0x01000100, 0, 0, 0, 0, 0⟩ = .ok (.lutld .u16 0x1000 256 256) := by
  decide

theorem test_decode_lut :
    decode ⟨0x00000011, 0x00040000, 0x00050003, 0x00040010, 0, 0, 0, 0⟩ =
      .ok (.lut .u8 0x40000 3 5 0x40010) := by decide

theorem test_decode_inv :
    decode ⟨0x00000112, 0xFFFFFFFE, 0xFFFF0001, 0x80000000, 0, 0, 0, 0⟩ =
      .ok (.inv .u16 0xFFFFFFFE 1 65535 0x80000000) := by decide

theorem test_decode_compose :
    decode ⟨0x00000120, 0x00001000, 0x00010002, 0x00001100, 0, 0, 0, 0⟩ =
      .ok (.compose .u16 0x1000 2 1 0x1100) := by decide

theorem test_decode_decomp :
    decode ⟨0x00000130, 0x00001100, 0x00020004, 0x00001200, 0x00001210, 0, 0, 0⟩ =
      .ok (.decomp .u16 0x1100 4 2 0x1200 0x1210) := by decide

theorem test_decode_dith1 :
    decode ⟨0x00020131, 0x00001100, 0x00020004, 0x00001400, 0, 0, 0, 0⟩ =
      .ok (.dith1 .u16 0x1100 4 2 0x1400 2) := by decide

theorem test_decode_dithn :
    decode ⟨0x00000132, 0x00001100, 0x00020004, 0x00001300, 0, 0, 0, 0⟩ =
      .ok (.dithn .u16 0x1100 4 2 0x1300) := by decide

/-- V-C3 to V-C8. -/
theorem test_decode_refusals :
    decode ⟨0, 0, 0, 0, 0, 0, 0, 0⟩ = .error .opcode ∧
    decode ⟨0x00000013, 0, 0, 0, 0, 0, 0, 0⟩ = .error .opcode ∧
    decode ⟨0x00000101, 0, 0, 0, 0, 0, 0, 0⟩ = .error .reservedBits ∧
    decode ⟨0x00050132, 0x1000, 0x20002, 0x2000, 0, 0, 0, 0⟩ = .error .reservedBits ∧
    decode ⟨0x00000002, 0, 0, 0, 0, 7, 0, 0⟩ = .error (.reservedWord 5) ∧
    decode ⟨0x00000111, 0x1000, 0x20002, 0x2000, 1, 0, 0, 0⟩ = .error (.reservedWord 4) := by decide

theorem test_table_word : decodeTableWord 32 0x00000002 = some .nop := by decide

/-! ## States for the tests -/

/-- The bytes of a list from an address on. -/
def cells (a : Nat) (l : List Nat) : List Host.Cell := l.zipIdx.map fun c => (a + c.2, BitVec.ofNat 8 c.1)

/-- The idle block of the vectors: LMEM_SIZE = 0x10000. -/
def idle : State := { State.reset with params := { lmemSize := 0x10000, regBase := 0x40000000 } }

/-- A busy engine at CP = 0x100 with some bytes in LMEM. -/
def busyWith (m : List Host.Cell) : State := { idle with ceBusy := true, cp := 0x100, lmem := m }

/-- The next state, where there is one. -/
def after (o : Host.Outcome State Fault Refusal) : State :=
  match o with
  | .next t => t
  | _ => State.reset

/-- One step of the engine on the command W placed at CP. -/
def run1 (s : State) (W : CmdWords) : State := after (step (s.placeCommand W.byte))

/-- n bytes from an address on. -/
def bytesAt (s : State) (a n : Nat) : List Nat := (List.range n).map fun k => (s.readByte (a + k)).toNat

/-- The fault record as the host reads it. -/
def record (s : State) : List Word :=
  [s.readReg .errCode, s.readReg .errInfo, s.readReg .errAddr, s.readReg .errCp]

/-! ## One step of each command, from the vectors -/

/-- V-C1. -/
theorem test_halt :
    let t := run1 (busyWith []) ⟨1, 0, 0, 0, 0, 0, 0, 0⟩
    (t.readReg .cp, t.readReg .irqStatus, t.readReg .status, record t) =
      (0x100, 0x01, 0, [0, 0, 0, 0]) := by decide

/-- V-C2: the NOP's step. -/
theorem test_nop :
    let t := run1 (busyWith []) ⟨2, 0, 0, 0, 0, 0, 0, 0⟩
    (t.readReg .cp, t.readReg .irqStatus, t.readReg .status) = (0x120, 0, 1) := by decide

/-- V-C6. -/
theorem test_reserved_word_faults :
    let t := run1 (busyWith []) ⟨2, 0, 0, 0, 0, 7, 0, 0⟩
    (t.readReg .cp, t.readReg .irqStatus, t.readReg .status, record t) =
      (0x100, 0x02, 0, [6, 0x00000503, 0, 0x100]) := by decide

/-- V-T4: no P1 for LUTLD. -/
theorem test_lutld_zero_height :
    record (run1 (busyWith []) ⟨0x110, 0, 0x00000100, 0, 0, 0, 0, 0⟩) = [3, 0x00000102, 0, 0x100] := by
  decide

/-- A busy engine with the two bytes of sample (1, 2) of a grid at 0x1000, at 0x1000 + 2*(256 + 2). -/
def gridState : State :=
  { busyWith (cells 0x1204 [0x34, 0x12]) with params := { lmemSize := 0x100000, regBase := 0 } }

/-- R88: entry r*256 + c is sample (r, c), here r = 1 and c = 2. -/
theorem test_lutld_entry :
    (after (exec (.lutld .u16 0x1000 256 256) gridState)).lutRead 0x0102 = 0x1234 := by
  have e : ∀ f, after (runChecked
      [require (256 = 256) (raised .v1 opSrc 0 0), require (256 = 256) (raised .v2 opSrc 0 0),
        require (Fmt.u16 = .u16) (raised .v3 opSrc 0 0),
        chkSurface ⟨0x1000, 256, 256, .u16⟩ opSrc gridState]
      ((gridState.touch [⟨0x1000, 131072⟩]).loadLut f) gridState) =
        ((gridState.touch [⟨0x1000, 131072⟩]).loadLut f).advance := fun f => by
    rw [runChecked_pass]
    · rfl
    · decide
  refine (congrArg (fun t => t.lutRead 0x0102) (e _)).trans ?_
  exact (State.lutRead_loadLut _ _ _ rfl).trans (by decide)

/-- V-T12 in small: a U8 sample indexes by its own value, the output is U16. -/
theorem test_lut_u8 :
    let s : State :=
      { busyWith (cells 0x1000 [0, 2, 1]) with
        lutValid := true
        lutRam := (Vector.replicate 65536 (7 : Half)).set 2 (0x1234 : Half) (by decide) }
    bytesAt (run1 s ⟨0x011, 0x1000, 0x00010003, 0x2000, 0, 0, 0, 0⟩) 0x2000 6 =
      [7, 0, 0x34, 0x12, 7, 0] := by decide

/-- V-T10: P1 before P2. -/
theorem test_lut_null_source :
    record (run1 (busyWith []) ⟨0x111, 0x1000, 0x00050000, 0x2000, 0, 0, 0, 0⟩) =
      [5, 0x00000101, 0, 0x100] := by decide

/-- V-T16. -/
theorem test_inv_u16 :
    bytesAt (run1 (busyWith (cells 0x1000 [0, 0, 0xFF, 0x7F, 0, 0x80, 0xFF, 0xFF]))
      ⟨0x112, 0x1000, 0x00010004, 0x1008, 0, 0, 0, 0⟩) 0x1008 8 =
      [0xFF, 0xFF, 0, 0x80, 0xFF, 0x7F, 0, 0] := by decide

/-- V-T17. -/
theorem test_inv_u8 :
    bytesAt (run1 (busyWith (cells 0x1001 [0, 255, 127, 128]))
      ⟨0x012, 0x1001, 0x00020002, 0x2000, 0, 0, 0, 0⟩) 0x2000 4 = [255, 0, 128, 127] := by decide

/-- V-P2. -/
theorem test_compose_centres :
    let s : State :=
      { busyWith (cells 0x1000 [0x30, 0x12, 0x70, 0x80]) with
        cfg := { CeConfig.reset with canvasW := 4, canvasH := 2 } }
    bytesAt (run1 s ⟨0x120, 0x1000, 0x00010002, 0x1100, 0, 0, 0, 0⟩) 0x1100 16 =
      [255, 255, 0x30, 0x12, 0x70, 0x80, 255, 255, 255, 255, 255, 255, 255, 255, 255, 255] := by decide

/-- V-P4 and V-B1: the box filter. -/
theorem test_compose_shrinks :
    let s : State :=
      { busyWith (cells 0x1000 [10, 20, 31]) with
        cfg := { CeConfig.reset with config := 1, fill := 9, canvasW := 2, canvasH := 1 } }
    bytesAt (run1 s ⟨0x020, 0x1000, 0x00010003, 0x1100, 0, 0, 0, 0⟩) 0x1100 2 = [13, 27] := by decide

/-- V-D10 on the first three samples. -/
theorem test_decomp :
    let t := run1 (busyWith (cells 0x1100 [0xFF, 0xFF, 0x30, 0x12, 0x70, 0x80]))
      ⟨0x130, 0x1100, 0x00010003, 0x1200, 0x1210, 0, 0, 0⟩
    (bytesAt t 0x1200 3, bytesAt t 0x1210 3) = ([255, 18, 128], [15, 3, 7]) := by decide

/-- V-D12. -/
theorem test_decomp_overlap :
    record (run1 (busyWith []) ⟨0x130, 0x1000, 0x00020002, 0x2000, 0x2003, 0, 0, 0⟩) =
      [8, 0x00030201, 0x2000, 0x100] := by decide

/-- V-D14 on the first three samples: f = 2. -/
theorem test_dith1 :
    bytesAt (run1 (busyWith (cells 0x1100 [0xFF, 0xFF, 0x30, 0x12, 0x70, 0x80]))
      ⟨0x20131, 0x1100, 0x00010003, 0x1400, 0, 0, 0, 0⟩) 0x1400 3 = [255, 19, 129] := by decide

/-- V-D17. -/
theorem test_dith1_frame_index :
    record (run1 (busyWith []) ⟨0x100131, 0x1000, 0x00020002, 0x2000, 0, 0, 0, 0⟩) =
      [3, 0x00000006, 0, 0x100] := by decide

/-- V-D15. -/
theorem test_dithn :
    bytesAt (run1 (busyWith (cells 0x1100 [0x30, 0x12]))
      ⟨0x132, 0x1100, 0x00010001, 0x1300, 0, 0, 0, 0⟩) 0x1300 16 =
      [19, 19, 19, 18, 18, 18, 18, 18, 18, 18, 18, 18, 18, 18, 18, 18] := by decide

/-- V-D19. -/
theorem test_dithn_overlap :
    record (run1 (busyWith []) ⟨0x132, 0x1000, 0x00020002, 0x0FF0, 0, 0, 0, 0⟩) =
      [8, 0x00020101, 0x1000, 0x100] := by decide

/-- The first step after reset with a command placed runs it. -/
theorem test_first_step_after_reset :
    (after (step (State.reset.withFetchWord 32 1))).readReg .irqStatus = 1 := by decide

/-! ## The sequencer, the registers and the ports -/

/-- Playback of four frames of 4×2 at 0x1300, interval 3, one pass (L3-2). -/
def playingAt (index : Byte) (elapsed shown presAddr : Word) : State :=
  { idle with
    seqCfg := { base := 0x1300, duration := 10, minInterval := 0, passes := 1 }
    seq :=
      { run := true, index := index, elapsed := elapsed, shown := shown, interval := 3, n := 4, w := 4
        h := 2, err := 0, presAddr := presAddr } }

/-- The sequencer's registers as the host reads them. -/
def seqView (s : State) : List Word :=
  [s.readReg .seqIndex, s.readReg .seqPresAddr, s.readReg .seqElapsed, s.readReg .seqShown,
    s.readReg .status, s.readReg .irqStatus]

/-- L3-2: the START of the playback. -/
theorem test_seq_start :
    let s : State :=
      { idle with
        cfg := { CeConfig.reset with canvasW := 4, canvasH := 2, frames := 4 }
        seqCfg := { base := 0x1300, duration := 10, minInterval := 0, passes := 1 } }
    let t := s.writeReg .seqCtrl 1
    (seqView t, t.readReg .seqInterval, t.readReg .seqN, t.readReg .seqGeom) =
      ([0, 0x1300, 0, 0, 4, 0], 3, 4, 0x00020004) := by decide

/-- V-Q10 to V-Q12. -/
theorem test_seq_refusals :
    ([{ CeConfig.reset with frames := 0 }, { CeConfig.reset with canvasW := 0 }, CeConfig.reset].map
      fun c => (({ idle with cfg := c } : State).writeReg .seqCtrl 1).readReg .seqErr) = [1, 2, 3] := by
  decide

/-- L3-2: ticks 3 and 12. -/
theorem test_ticks :
    seqView (playingAt 0 2 0 0x1300).seqTick = [1, 0x1308, 0, 1, 4, 0x10] ∧
    seqView (playingAt 3 2 3 0x1318).seqTick = [3, 0x1318, 0, 4, 0, 0x20] := by decide

/-- V-H5 to V-H8 in one: START and a locked write on a busy engine, then the clears. -/
theorem test_busy_writes :
    let t := ((busyWith []).writeReg .ctrl 3).writeReg .config 0
    (t.readReg .status, t.readReg .irqStatus, t.readReg .config,
      (t.writeReg .irqStatus 0xFF).readReg .irqStatus) = (9, 0x88, 3, 0) := by decide

/-- V-H10 and V-H11: the line follows the enable. -/
theorem test_interrupt_line :
    (({ idle with irqStatus := 2, irqEnable := 2 } : State).irqLine,
      ({ idle with irqStatus := 1, irqEnable := 0 } : State).irqLine) = (true, false) := by decide

/-- V-H3: a reserved offset reads 0. -/
theorem test_reserved_offset : idle.readOffset 0x80 = 0 := by decide

/-- R47: a host word of two samples. -/
theorem test_host_read_order :
    (after (hostMemRead .b4 0x1000 []
      ({ idle with lmem := cells 0x1000 [0x64, 0x00, 0xC8, 0x01] } : State))).record =
      [.memory .b4 0x1000 0x01C80064] := by decide

/-- R74: labels, addresses and words of a command list. -/
theorem test_assembler :
    assembleFrom 0 [.org 0x100, .instr .nop, .label "end", .instr .halt] =
      some [(0x100, ⟨2, 0, 0, 0, 0, 0, 0, 0⟩), (0x120, ⟨1, 0, 0, 0, 0, 0, 0, 0⟩)] ∧
    labelsFrom 0 [.org 0x100, .instr .nop, .label "end", .instr .halt] = [("end", 0x120)] := by decide

/-- R74: a text with a comment, a label and a hex address. -/
theorem test_assembly_text :
    assembleText ['.', 'o', 'r', 'g', ' ', '0', 'x', '1', '0', '0', ';', 'a', '\n', ' ', 'N', 'O', 'P', '\n', '\n',
      'e', ':', '\n', 'D', 'I', 'T', 'H', '1', '.', 'u', '1', '6', ' ', '0', 'x', '1', 'F', ',', ' ', '4', ',', '2',
      ',', ' ', 'e', ',', '2'] =
      some [(0x100, ⟨2, 0, 0, 0, 0, 0, 0, 0⟩),
        (0x120, ⟨0x00020131, 0x1F, 0x00020004, 0x120, 0, 0, 0, 0⟩)] := by decide

/-- R74: a width above 65535 is refused, and so is an operand of NOP. -/
theorem test_assembly_refused :
    assembleText ['I', 'N', 'V', '.', 'u', '8', ' ', '0', ',', '6', '5', '5', '3', '6', ',', '1', ',', '0'] = none ∧
    assembleText ['N', 'O', 'P', ' ', '1'] = none := by decide

/-- R60: a run that ends without touching a byte that a host access raced for is no run of the block, and
one that touches it is. -/
theorem test_race_is_checked :
    let run : List Nat → Bool := fun awaited =>
      match step { busyWith (cells 0x100 (1 :: List.replicate 31 0)) with
        race := { Race.clear with awaited := awaited } } with
      | .refused .raceNeverHappened => false
      | _ => true
    run [0x120] = false ∧ run [0x11F] = true := by decide

/-! ## Witnesses: for each statement with hypotheses, a state and operands that meet them all together.
A statement with several clauses has one for each clause, at a boundary of its range. -/

theorem apart {I J : Span} (h : I.overlaps J = false) : I.Apart J := (Span.overlaps_eq_false_iff I J).1 h

theorem notApart {I J : Span} (h : I.overlaps J = true) : ¬ I.Apart J := fun ha => by
  rw [← Span.overlaps_eq_false_iff, h] at ha
  cases ha

theorem placed {S : Surface} {s : State} (h : chkSurface S 0 s = none) : S.Placed s := chkSurface_eq_none.1 h

theorem notPresented {D : Surface} {s : State} (h : chkFiu D 0 s = none) : s.NotPresented D :=
  chkFiu_eq_none.1 h

theorem presented {D : Surface} {s : State} (h : chkFiu D 0 s ≠ none) : ¬ s.NotPresented D :=
  fun hd => h (chkFiu_eq_none.2 hd)

/-- A legal state whose sequencer is stopped. -/
theorem legalStopped {s : State} (hp : s.params.wf)
    (hm : Memory.wf s.lmem ∧ ∀ c ∈ s.lmem, c.1 < s.params.lmemSize)
    (ha : s.abortPend = true → s.ceBusy = true) (hc : s.race = Race.clear) (he : s.err = ErrRecord.clear) (hq : s.seq.err = 0)
    (hr : s.seq.run = false) : s.Inv :=
  ⟨hp, hm.1, hm.2, ha, fun _ => he, .inl (by rw [he]; rfl), fun _ => by rw [hc]; rfl,
    by rw [hq]; decide, by simp [hr]⟩

/-- The playback's states are legal at each frame. -/
theorem playing_legal {index : Byte} {elapsed shown presAddr : Word}
    (h : index.toNat < 4 ∧ elapsed.toNat < 3 ∧ shown.toNat < 4 ∧
      presAddr.toNat = 0x1300 + index.toNat * 4 * 2) :
    (playingAt index elapsed shown presAddr).Inv :=
  ⟨(by decide : idle.params.wf), List.Pairwise.nil, nofun, nofun, nofun, .inl rfl, fun _ => rfl, Nat.zero_le 3, fun _ =>
    ⟨(by decide : 0 < 4), (by decide : 0 < 4), (by decide : 0 < 2),
      (by decide : 0x1300 + 4 * 4 * 2 ≤ 0x10000), h.1, h.2.1, h.2.2.2, fun _ => h.2.2.1⟩⟩

/-- A busy engine with sources in LMEM and a loaded table, in a run during which the host has written the
byte below the sources and a word that no command here touches. -/
def ready : State :=
  { busyWith (cells 0x1000 [0x64, 0, 0xC8, 0, 0x2C, 1, 0x90, 1]) with
    lutValid := true, race := { Race.clear with hostWrites := [⟨0x0FFF, 1⟩, ⟨0x4000, 4⟩] } }

theorem notDisturbed {s : State} {i : Instr}
    (h : s.race.tainted = false ∧ ∀ I ∈ s.race.hostWrites, ∀ S ∈ sourcesOf i ++ destinationsOf i s,
      S.span.overlaps I = false) : ¬ s.Disturbed i := by
  rintro (ht | ⟨I, hI, S, hS, hn⟩)
  · rw [h.1] at ht; cases ht
  · exact hn (apart (h.2 I hI S hS))

/-- A busy engine while the frames [0x1300, 0x1320) are presented. -/
def readyPlaying : State := { playingAt 0 0 0 0x1300 with ceBusy := true, cp := 0x100, lutValid := true }

/-! ### Encoding -/

theorem witness_DecodeAfterEncodeGivesTheCommand :
    (Instr.dith1 .u16 0xFFFFFFFF 65535 65535 0xFFFFFFFF 255).WellFormed := by decide

theorem witness_EncodeAfterDecodeGivesTheWords :
    decode ⟨0x00FF0131, 0xFFFFFFFF, 0xFFFFFFFF, 0xFFFFFFFF, 0, 0, 0, 0⟩ =
      .ok (.dith1 .u16 0xFFFFFFFF 65535 65535 0xFFFFFFFF 255) := by decide

/-- The clauses I1 (OPC 0x00 and 0x33), I2, I3 (words 1, 5 and 7), and no violation. -/
theorem witness_DecoderReportsTheFirstViolation :
    (∀ b ∈ [0x00#8, 0x33#8],
      b ∉ ([0x01, 0x02, 0x10, 0x11, 0x12, 0x20, 0x30, 0x31, 0x32] : List Byte)) ∧
    ((0x00000101#32).extractLsb' 0 8 = Opcode.halt.byte ∧
      0x00000101#32 &&& Opcode.halt.mask ≠ Opcode.halt.pattern) ∧
    ((0x00000130#32).extractLsb' 0 8 = Opcode.decomp.byte ∧
      0x00000130#32 &&& Opcode.decomp.mask = Opcode.decomp.pattern) ∧
    (1 ∈ Opcode.halt.reservedWords ∧ CmdWords.word ⟨1, 7, 0, 0, 0, 0, 0, 7⟩ 1 ≠ 0 ∧
      ∀ j ∈ Opcode.halt.reservedWords, j < 1 → CmdWords.word ⟨1, 7, 0, 0, 0, 0, 0, 7⟩ j = 0) ∧
    (7 ∈ Opcode.decomp.reservedWords ∧ CmdWords.word ⟨0x130, 1, 2, 3, 4, 0, 0, 7⟩ 7 ≠ 0 ∧
      ∀ j ∈ Opcode.decomp.reservedWords, j < 7 →
        CmdWords.word ⟨0x130, 1, 2, 3, 4, 0, 0, 7⟩ j = 0) ∧
    ∀ k ∈ Opcode.decomp.reservedWords, CmdWords.word ⟨0x130, 1, 2, 3, 4, 0, 0, 0⟩ k = 0 := by decide

theorem witness_OpcodeRowsNeverOverlap :
    0x00FF0131#32 &&& Opcode.dith1.mask = Opcode.dith1.pattern := by decide

/-! ### The command engine -/

/-- The NOP at CP, with nothing pending and with the engine's step pending; and an ended run that awaits a
byte. -/
theorem witness_StepRunsTheDecodedCommand :
    (let s := (busyWith []).placeCommand (CmdWords.byte ⟨2, 0, 0, 0, 0, 0, 0, 0⟩)
    s.ceBusy = true ∧ s.abortPend = false ∧ s.fetchCheck = none ∧ Instr.nop.WellFormed ∧
      decode s.fetchWords = .ok .nop ∧ s.race.awaited = [] ∧ s.schedule = [] ∧
      ({ s with schedule := [.ceStep, .tick] } : State).schedule = .ceStep :: [.tick]) ∧
    (let t : State := { idle with race := { Race.clear with awaited := [0x1000] } };
      t.ceBusy = false ∧ t.race.awaited ≠ []) := by decide

/-- Every kind of event first in the schedule. -/
theorem witness_AgentsStepOneAtATime :
    (∀ e ∈ [Event.regRead .b4 0, .regWrite .b4 0 0, .memRead .b1 0 [], .memWrite .b1 0 0 [], .ceStep, .tick,
        .displayRead 0 0, .resetInput],
      ({ idle with schedule := [e, .ceStep] } : State).schedule = e :: [.ceStep]) ∧
      idle.schedule = [] ∧ idle.ceBusy = false := by decide

/-- A1 at 0x102, A2 at LMEM_SIZE - 28, no violation at LMEM_SIZE - 32. -/
theorem witness_FetchChecksThenReadsEightWords :
    (busyWith []).ceBusy = true ∧ (busyWith []).abortPend = false ∧ (busyWith []).race.awaited = [] ∧
      (0x102#32).toNat % 4 ≠ 0 ∧
      (0xFFE4#32).toNat % 4 = 0 ∧ (busyWith []).params.lmemSize < (0xFFE4#32).toNat + 32 ∧
      (0xFFE0#32).toNat % 4 = 0 ∧ (0xFFE0#32).toNat + 32 ≤ (busyWith []).params.lmemSize := by decide

theorem witness_StartBeginsARunOnlyWhenIdle : idle.ceBusy = false ∧ (busyWith []).ceBusy = true := by
  decide

/-- The four values of the two bits. -/
theorem witness_AbortAndStartInOneWrite :
    ([0#32, 1#32, 2#32, 3#32].map fun v => (v.getLsbD 0, v.getLsbD 1)) =
      [(false, false), (true, false), (false, true), (true, true)] := by decide

theorem witness_AbortIsTakenAtTheBoundary :
    ∃ s t : State, s.ceBusy = true ∧ s.abortPend = true ∧
      t = { s with ceBusy := false, abortPend := false, irqStatus := s.irqStatus ||| 4#8 } ∧
      s.race.awaited = [] :=
  ⟨{ busyWith [] with abortPend := true }, _, rfl, rfl, rfl, rfl⟩

/-- A HALT, a fault (the null source) and a NOP; and the CP at the top of an LMEM of 2^32 - 1 bytes. -/
theorem witness_CommandPointerAdvancesBy32 :
    exec .halt ready = .next ready.haltTake ∧
    exec (.inv .u8 0 0 1 0) ready = .next (ready.takeFault ⟨.p1, 1, 0, 0⟩) ∧
    ((exec .nop ready = .next ready.advance ∧ Instr.nop ≠ .halt) ∧
      ∀ r, ready.advance ≠ ready.takeFault r) ∧
    (let s : State := { busyWith [] with cp := 0xFFFFFFE0, params := ⟨4294967295, 0⟩ };
      s.ceBusy = true ∧ s.abortPend = false ∧ s.cp = 0xFFFFFFE0#32 ∧ s.params.lmemSize < 4294967296 ∧
        s.race.awaited = []) :=
  ⟨rfl, rfl, ⟨⟨rfl, nofun⟩, fun r h => by
    have := congrArg (fun t : State => t.ceBusy) h
    simp [ready, busyWith] at this⟩, by decide⟩

theorem busy_legal (m : List Host.Cell)
    (hm : Memory.wf m ∧ ∀ c ∈ m, c.1 < 0x10000) : (busyWith m).Inv :=
  legalStopped (by decide : idle.params.wf) hm (fun _ => rfl) rfl rfl rfl rfl

/-- The three ends: a HALT at CP, an all-zero command at CP, a pending abort. -/
theorem witness_ARunEndsInOneOfThreeWays :
    (∃ s t : State, s.Inv ∧ step s = .next t ∧ s.ceBusy = true ∧ t.ceBusy = false ∧
      s.schedule.head? ≠ some .resetInput ∧ t.irqPending .ceDone = true) ∧
    (∃ s t : State, s.Inv ∧ step s = .next t ∧ s.ceBusy = true ∧ t.ceBusy = false ∧
      s.schedule.head? ≠ some .resetInput ∧ t.irqPending .ceErr = true) ∧
    (∃ s t : State, s.Inv ∧ step s = .next t ∧ s.ceBusy = true ∧ t.ceBusy = false ∧
      s.schedule.head? ≠ some .resetInput ∧ t.irqPending .ceAbort = true) :=
  ⟨⟨busyWith (cells 0x100 (1 :: List.replicate 31 0)), _, busy_legal _ (by decide), rfl, rfl, rfl,
      by decide, by decide⟩,
    ⟨busyWith (cells 0x100 (List.replicate 32 0)), _, busy_legal _ (by decide), rfl, rfl, rfl,
      by decide, by decide⟩,
    ⟨{ busyWith [] with abortPend := true }, _,
      legalStopped (by decide) (by decide) (by decide) rfl rfl rfl rfl, rfl, rfl, rfl, by decide, by decide⟩⟩

/-! ### Tone unit -/

/-- A grid that ends at LMEM_SIZE, its last entry. -/
theorem witness_LutldLoadsTheGrid :
    let s : State := { ready with params := ⟨0x20002, 0⟩, race := { Race.clear with hostWrites := [⟨0, 2⟩] } }
    (⟨2, 256, 256, .u16⟩ : Surface).Placed s ∧ ¬ s.Disturbed (.lutld .u16 2 256 256) ∧ 255 < 256 :=
  ⟨placed (by decide), notDisturbed (by decide), by decide⟩

/-- V1 to V3, A3, and A4 by one byte: operands of each clause. -/
theorem witness_LutldRefusesBadGrids :
    255 ≠ 256 ∧ (256 = 256 ∧ 0 ≠ 256) ∧ Fmt.u8 = .u8 ∧ 1 % 2 = 1 ∧
      (0 % 2 = 0 ∧ ({ ready with params := ⟨131071, 0⟩ } : State).params.lmemSize < 0 + 131072) := by
  decide

/-- Adjacent surfaces, the destination at the top of LMEM in the second case. -/
theorem witness_LutLooksUpEverySample :
    ∀ dst ∈ [0x1008, 0xFFF8], 2 ≠ 0 ∧ ready.lutValid = true ∧
      (⟨0x1000, 2, 2, .u16⟩ : Surface).Placed ready ∧ (⟨dst, 2, 2, .u16⟩ : Surface).Placed ready ∧
      (⟨0x1000, 2, 2, .u16⟩ : Surface).span.Apart (⟨dst, 2, 2, .u16⟩ : Surface).span ∧
      ready.NotPresented ⟨dst, 2, 2, .u16⟩ ∧ ¬ ready.Disturbed (.lut .u16 0x1000 2 2 dst) := by
  intro dst hd
  have hd : dst = 0x1008 ∨ dst = 0xFFF8 := by simpa using hd
  rcases hd with rfl | rfl <;>
    exact ⟨by decide, rfl, placed (by decide), placed (by decide), apart (by decide),
      notPresented (by decide), notDisturbed (by decide)⟩

theorem witness_InvInvertsEverySample :
    2 ≠ 0 ∧ (⟨0x1000, 2, 2, .u16⟩ : Surface).Placed ready ∧ (⟨0x1008, 2, 2, .u16⟩ : Surface).Placed ready ∧
      (⟨0x1000, 2, 2, .u16⟩ : Surface).span.Apart (⟨0x1008, 2, 2, .u16⟩ : Surface).span ∧
      ready.NotPresented ⟨0x1008, 2, 2, .u16⟩ ∧ ¬ ready.Disturbed (.inv .u16 0x1000 2 2 0x1008) ∧
      (⟨0x1001, 3, 1, .u8⟩ : Surface).Placed ready ∧ (⟨0x1004, 3, 1, .u8⟩ : Surface).Placed ready ∧
      (⟨0x1001, 3, 1, .u8⟩ : Surface).span.Apart (⟨0x1004, 3, 1, .u8⟩ : Surface).span ∧
      ready.NotPresented ⟨0x1004, 3, 1, .u8⟩ :=
  ⟨by decide, placed (by decide), placed (by decide), apart (by decide), notPresented (by decide),
    notDisturbed (by decide), placed (by decide), placed (by decide), apart (by decide), notPresented (by decide)⟩

theorem witness_InvTwiceGivesBackTheSource :
    ∃ u v : State, ¬ ready.Disturbed (.inv .u16 0x1000 2 2 0x2000) ∧
      ¬ ready.Disturbed (.inv .u16 0x2000 2 2 0x3000) ∧
      exec (.inv .u16 0x1000 2 2 0x2000) ready = .next u ∧ u.ceBusy = true ∧
      exec (.inv .u16 0x2000 2 2 0x3000) u = .next v ∧ v.ceBusy = true :=
  ⟨_, _, notDisturbed (by decide), notDisturbed (by decide), rfl, rfl, rfl, rfl⟩

theorem witness_ToneGivesTheInvertedTable :
    ∃ u v : State, ¬ ready.Disturbed (.lut .u8 0x1001 2 2 0x2000) ∧
      ¬ ready.Disturbed (.inv .u16 0x2000 2 2 0x3000) ∧
      exec (.lut .u8 0x1001 2 2 0x2000) ready = .next u ∧ u.ceBusy = true ∧
      exec (.inv .u16 0x2000 2 2 0x3000) u = .next v ∧ v.ceBusy = true :=
  ⟨_, _, notDisturbed (by decide), notDisturbed (by decide), rfl, rfl, rfl, rfl⟩

/-! ### Canvas compositor -/

/-- A source of exactly the canvas, one column more, and a canvas of no rows. -/
theorem witness_ScaledSizeIsTheFlooredUniformScale :
    (1 ≤ 7680 ∧ 1 ≤ 4320 ∧ 7680 ≤ 7680 ∧ 4320 ≤ 4320) ∧
    (1 ≤ 7681 ∧ 1 ≤ 4320 ∧ ¬ (7681 ≤ 7680 ∧ 4320 ≤ 4320)) ∧
    (1 ≤ 2 ∧ (0 = 0 ∨ 5 = 0)) := by decide

/-- The last output sample; bounds on the covered samples; the unchanged size. -/
theorem witness_BoxFilterIsTheAreaMean :
    (1 ≤ 3 ∧ 1 ≤ 1 ∧ 0 < 1 ∧ 1 < 2) ∧
    (∀ v u, v < 1 → u < 3 → 0 < boxWeight 3 2 1 u * boxWeight 1 1 0 v →
      20 ≤ 10 * (u + 1) ∧ 10 * (u + 1) ≤ 30) ∧
    (1 ≤ 3 ∧ 1 ≤ 2 ∧ 1 < 2 ∧ 2 < 3) := by
  refine ⟨by decide, fun v u hv hu h => ?_, by decide⟩
  rcases Nat.eq_zero_or_pos u with rfl | hp
  · obtain rfl : v = 0 := by omega
    exact absurd h (by decide)
  · omega

/-- No padding and an odd padding, with CENTER and without. -/
theorem witness_PlacementCentresWithTrailingBias :
    3 ≤ 3 ∧ 2 ≤ 5 ∧ (idle.readReg .config).getLsbD 0 = true ∧
      (({ idle with cfg := { CeConfig.reset with config := 2 } } : State).readReg .config).getLsbD 0 =
        false := by decide

/-- A state for COMPOSE: a U8 canvas of 5×2 with FILL at its greatest value. -/
def canvasState : State :=
  { ready with cfg := { CeConfig.reset with config := 1, fill := 255, canvasW := 5, canvasH := 2 } }

/-- A source that fits and one that is scaled. -/
theorem witness_ComposeFillsAndBlits :
    let C : Surface := ⟨0x2000, 5, 2, .u8⟩
    (C = ⟨0x2000, canvasState.cfg.canvasW.toNat, canvasState.cfg.canvasH.toNat, .u8⟩ ∧
      255 = (if canvasState.cfg.config.getLsbD 1 then maxOf .u8 else canvasState.cfg.fill.toNat) ∧
      (2, 1) = scaleDims 2 1 C.w C.h ∧ (2, 2) = scaleDims 4 4 C.w C.h ∧
      0 = placement (canvasState.cfg.config.getLsbD 0) C.h 1 ∧
      1 = placement (canvasState.cfg.config.getLsbD 0) C.w 2 ∧ 255 ≤ maxOf .u8 ∧ 2 ≤ C.w ∧ 2 ≤ C.h) ∧
    (⟨0x1000, 2, 1, .u8⟩ : Surface).Placed canvasState ∧ (⟨0x1000, 4, 4, .u8⟩ : Surface).Placed canvasState ∧
    C.Placed canvasState ∧ (⟨0x1000, 2, 1, .u8⟩ : Surface).span.Apart C.span ∧
    (⟨0x1000, 4, 4, .u8⟩ : Surface).span.Apart C.span ∧ canvasState.NotPresented C ∧
    ¬ canvasState.Disturbed (.compose .u8 0x1000 2 1 0x2000) ∧
    ¬ canvasState.Disturbed (.compose .u8 0x1000 4 4 0x2000) :=
  ⟨by decide, placed (by decide), placed (by decide), placed (by decide), apart (by decide),
    apart (by decide), notPresented (by decide), notDisturbed (by decide), notDisturbed (by decide)⟩

/-- FILL one above the greatest U8 sample; no columns; no rows; a canvas. -/
theorem witness_ComposeReportsFillAndRange :
    (let c : CeConfig := { canvasState.cfg with fill := 256 };
      c.config.getLsbD 1 = false ∧ 255 < c.fill.toNat) ∧
    (let c : CeConfig := { canvasState.cfg with canvasW := 0 };
      ¬ (Fmt.u8 = .u8 ∧ c.config.getLsbD 1 = false ∧ 255 < c.fill.toNat) ∧ c.canvasW.toNat = 0) ∧
    (let c : CeConfig := { canvasState.cfg with canvasH := 0 };
      ¬ (Fmt.u8 = .u8 ∧ c.config.getLsbD 1 = false ∧ 255 < c.fill.toNat) ∧ c.canvasW.toNat ≠ 0 ∧
        c.canvasH.toNat = 0) ∧
    (canvasState.cfg.canvasW.toNat ≠ 0 ∧ canvasState.cfg.canvasH.toNat ≠ 0) := by decide

/-! ### Bit planes and dither -/

theorem witness_FrameValueOfTheTwelveHighBits :
    0xFFFF < 65536 ∧ 15 < 16 ∧ baseOf 0xFFFF = 255 ∧ (idle.readReg .config).getLsbD 2 = false ∧
      (({ idle with cfg := { CeConfig.reset with config := 7 } } : State).readReg .config).getLsbD 2 =
        true := by decide

theorem witness_DitherAveragesToTheTwelveBitLevel :
    (0xFEFF < 65536 ∧ baseOf 0xFEFF ≤ 254 ∧ 16 ≤ 16) ∧ (0xFF00 < 65536 ∧ baseOf 0xFF00 = 255) ∧ 15 < 16 := by
  decide

theorem witness_DecompWritesBothPlanes :
    (⟨0x1000, 2, 2, .u16⟩ : Surface).Placed ready ∧ (⟨0x1008, 2, 2, .u8⟩ : Surface).Placed ready ∧
      (⟨0x100C, 2, 2, .u8⟩ : Surface).Placed ready ∧
      (⟨0x1000, 2, 2, .u16⟩ : Surface).span.Apart (⟨0x1008, 2, 2, .u8⟩ : Surface).span ∧
      (⟨0x1000, 2, 2, .u16⟩ : Surface).span.Apart (⟨0x100C, 2, 2, .u8⟩ : Surface).span ∧
      (⟨0x1008, 2, 2, .u8⟩ : Surface).span.Apart (⟨0x100C, 2, 2, .u8⟩ : Surface).span ∧
      ready.NotPresented ⟨0x1008, 2, 2, .u8⟩ ∧ ready.NotPresented ⟨0x100C, 2, 2, .u8⟩ ∧
      ¬ ready.Disturbed (.decomp .u16 0x1000 2 2 0x1008 0x100C) :=
  ⟨placed (by decide), placed (by decide), placed (by decide), apart (by decide), apart (by decide),
    apart (by decide), notPresented (by decide), notPresented (by decide), notDisturbed (by decide)⟩

theorem witness_Dith1WritesOneFrame :
    15 < ready.cfg.frames.toNat ∧ (⟨0x1000, 2, 2, .u16⟩ : Surface).Placed ready ∧
      (⟨0x1008, 2, 2, .u8⟩ : Surface).Placed ready ∧
      (⟨0x1000, 2, 2, .u16⟩ : Surface).span.Apart (⟨0x1008, 2, 2, .u8⟩ : Surface).span ∧
      ready.NotPresented ⟨0x1008, 2, 2, .u8⟩ ∧ ¬ ready.Disturbed (.dith1 .u16 0x1000 2 2 0x1008 15) :=
  ⟨by decide, placed (by decide), placed (by decide), apart (by decide), notPresented (by decide),
    notDisturbed (by decide)⟩

theorem witness_DithnWritesTheFrameSet :
    ready.cfg.frames.toNat ≠ 0 ∧ (⟨0x1000, 2, 2, .u16⟩ : Surface).Placed ready ∧
      (⟨0x1008, 2, ready.cfg.frames.toNat * 2, .u8⟩ : Surface).Placed ready ∧
      (⟨0x1000, 2, 2, .u16⟩ : Surface).span.Apart
        (⟨0x1008, 2, ready.cfg.frames.toNat * 2, .u8⟩ : Surface).span ∧
      ready.NotPresented ⟨0x1008, 2, ready.cfg.frames.toNat * 2, .u8⟩ ∧
      ¬ ready.Disturbed (.dithn .u16 0x1000 2 2 0x1008) ∧ 15 < ready.cfg.frames.toNat :=
  ⟨by decide, placed (by decide), placed (by decide), apart (by decide), notPresented (by decide),
    notDisturbed (by decide), by decide⟩

theorem witness_Dith1EqualsAFrameOfDithn :
    ∃ u v : State, ¬ ready.Disturbed (.dithn .u16 0x1000 2 2 0x2000) ∧
      ¬ ready.Disturbed (.dith1 .u16 0x1000 2 2 0x3000 15) ∧ 15 < ready.cfg.frames.toNat ∧
      exec (.dithn .u16 0x1000 2 2 0x2000) ready = .next u ∧ u.ceBusy = true ∧
      exec (.dith1 .u16 0x1000 2 2 0x3000 15) ready = .next v ∧ v.ceBusy = true ∧ 3 < 2 * 2 :=
  ⟨_, _, notDisturbed (by decide), notDisturbed (by decide), by decide, rfl, rfl, rfl, rfl, by decide⟩

theorem witness_DitherCommandsReportFormatAndFrames :
    (1 ≠ 0 ∧ Fmt.u8 = .u8) ∧
    ({ ready with cfg := { ready.cfg with frames := 0 } } : State).cfg.frames.toNat = 0 ∧
    (ready.cfg.frames.toNat ≠ 0 ∧ ready.cfg.frames.toNat ≤ 16) := by decide

theorem witness_NullSourceFaultsFirstThenMissingTable :
    ((0 = 0 ∨ 5 = 0) ∧ (256 = 0 ∨ 0 = 0)) ∧ (1 ≠ 0 ∧ (busyWith []).lutValid = false) := by decide

/-! ### The shared checks -/

/-- The six hypotheses of `ReportsOperandFaults`, each met, for U16 surfaces in one state. -/
theorem witness_OperandFaultsInOrder :
    let S : Surface := ⟨0x1000, 2, 2, .u16⟩
    (readyPlaying.lutValid = true ∧ readyPlaying.cfg.canvasW.toNat ≠ 0 ∧ readyPlaying.cfg.canvasH.toNat ≠ 0 ∧
      readyPlaying.cfg.config.getLsbD 1 = true ∧ 15 < readyPlaying.cfg.frames.toNat ∧
      (0x1001 % 2 = 1 ∧ 0xFFFA % 2 = 0 ∧
        readyPlaying.params.lmemSize < 0xFFFA + (⟨0xFFFA, 2, 2, .u16⟩ : Surface).len)) ∧
    S.Placed readyPlaying ∧
    ((⟨0x1006, 2, 2, .u16⟩ : Surface).Placed readyPlaying ∧
      ¬ S.span.Apart (⟨0x1006, 2, 2, .u16⟩ : Surface).span) ∧
    ((⟨0x131E, 2, 2, .u16⟩ : Surface).Placed readyPlaying ∧
      S.span.Apart (⟨0x131E, 2, 2, .u16⟩ : Surface).span ∧
      ¬ readyPlaying.NotPresented ⟨0x131E, 2, 2, .u16⟩) :=
  ⟨by decide, placed (by decide), ⟨placed (by decide), notApart (by decide)⟩,
    ⟨placed (by decide), apart (by decide), presented (by decide)⟩⟩

/-- Each clause, in order, with the last byte of an operand deciding it. -/
theorem witness_DecompReportsThreeOperands :
    let S : Surface := ⟨0x1000, 2, 2, .u16⟩
    let at8 : Nat → Surface := fun a => ⟨a, 2, 2, .u8⟩
    (2 ≠ 0 ∧ 0x1001 % 2 = 1 ∧ 0xFFFA % 2 = 0 ∧ readyPlaying.params.lmemSize < 0xFFFA + 2 * 2 * 2) ∧
    (S.Placed readyPlaying ∧ (at8 0x2000).Placed readyPlaying ∧
      readyPlaying.params.lmemSize < 0xFFFD + 2 * 2 ∧ (at8 0xFFFC).Placed readyPlaying) ∧
    ((at8 0x1007).Placed readyPlaying ∧ ¬ S.span.Apart (at8 0x1007).span) ∧
    (S.span.Apart (at8 0x2000).span ∧ ¬ S.span.Apart (at8 0x0FFD).span ∧ (at8 0x0FFD).Placed readyPlaying) ∧
    (S.span.Apart (at8 0x2003).span ∧ ¬ (at8 0x2000).span.Apart (at8 0x2003).span ∧
      (at8 0x2003).Placed readyPlaying) ∧
    ((at8 0x12FD).Placed readyPlaying ∧ S.span.Apart (at8 0x12FD).span ∧
      (at8 0x12FD).span.Apart (at8 0x2000).span ∧ ¬ readyPlaying.NotPresented (at8 0x12FD)) ∧
    (S.span.Apart (at8 0x131F).span ∧ (at8 0x2000).span.Apart (at8 0x131F).span ∧
      readyPlaying.NotPresented (at8 0x2000) ∧ ¬ readyPlaying.NotPresented (at8 0x131F) ∧
      (at8 0x131F).Placed readyPlaying) :=
  ⟨by decide, ⟨placed (by decide), placed (by decide), by decide, placed (by decide)⟩,
    ⟨placed (by decide), notApart (by decide)⟩,
    ⟨apart (by decide), notApart (by decide), placed (by decide)⟩,
    ⟨apart (by decide), notApart (by decide), placed (by decide)⟩,
    ⟨placed (by decide), apart (by decide), apart (by decide), presented (by decide)⟩,
    ⟨apart (by decide), apart (by decide), notPresented (by decide), presented (by decide), placed (by decide)⟩⟩

/-- A command that stores just below the presented frames. -/
theorem witness_NoCommandWritesThePresentedFrames :
    ∃ t : State, readyPlaying.seq.run = true ∧
      exec (.inv .u8 0x1000 2 2 0x12FC) readyPlaying = .next t ∧
      readyPlaying.activeSet.holds 0x1300 = true :=
  ⟨_, rfl, rfl, by decide⟩

/-! ### The frame sequencer -/

theorem witness_IntervalIsTheLeastThatCoversTheExposure :
    1 ≤ 1 ∧ 1 ≤ 34 ∧ 0 ≤ 34 ∧ 100 ≤ 3 * 34 := by decide

/-- A frame set that ends exactly at LMEM_SIZE (V-Q13). -/
def setAtTop : State :=
  { idle with
    cfg := { CeConfig.reset with canvasW := 16, canvasH := 16 }
    seqCfg := { SeqConfig.reset with base := 0xF000 } }

theorem witness_SequencerStartPresentsFrameZero :
    setAtTop.cfg.frames.toNat ≠ 0 ∧ setAtTop.cfg.canvasW.toNat ≠ 0 ∧ setAtTop.cfg.canvasH.toNat ≠ 0 ∧
      setAtTop.seqCfg.base.toNat +
          setAtTop.cfg.frames.toNat * setAtTop.cfg.canvasW.toNat * setAtTop.cfg.canvasH.toNat
        ≤ setAtTop.params.lmemSize := by decide

/-- No frames; no rows; a set that ends one byte above LMEM_SIZE. -/
theorem witness_SequencerStartRefusalsInOrder :
    ({ CeConfig.reset with frames := 0 } : CeConfig).frames.toNat = 0 ∧
    (setAtTop.cfg.frames.toNat ≠ 0 ∧
      ({ setAtTop.cfg with canvasH := 0 } : CeConfig).canvasH.toNat = 0) ∧
    (let s : State := { setAtTop with seqCfg := { SeqConfig.reset with base := 0xF001 } };
      s.cfg.frames.toNat ≠ 0 ∧ s.cfg.canvasW.toNat ≠ 0 ∧ s.cfg.canvasH.toNat ≠ 0 ∧
        s.params.lmemSize =
          s.seqCfg.base.toNat + s.cfg.frames.toNat * s.cfg.canvasW.toNat * s.cfg.canvasH.toNat - 1) := by
  decide

theorem witness_SequencerStopKeepsTheLatchedValues :
    ([2#32, 0#32, 3#32].map fun v => (v.getLsbD 0, v.getLsbD 1)) =
      [(false, true), (false, false), (true, true)] ∧ idle.seq.run = false := by decide

/-- Stopped; inside an interval; the last tick of all; the last tick of a frame. -/
theorem witness_TickAdvancesThePlayback :
    (idle.Inv ∧ idle.seq.run = false) ∧
    (let s := playingAt 0 1 0 0x1300;
      s.Inv ∧ s.seq.run = true ∧ s.seq.elapsed.toNat + 1 < s.seq.interval.toNat) ∧
    (let s := playingAt 3 2 3 0x1318;
      s.Inv ∧ s.seq.run = true ∧ s.seq.interval.toNat ≤ s.seq.elapsed.toNat + 1 ∧
        s.seqCfg.passes.toNat ≠ 0 ∧ s.seq.shown.toNat + 1 = s.seq.n.toNat * s.seqCfg.passes.toNat) ∧
    (let s := playingAt 2 2 2 0x1310;
      s.Inv ∧ s.seq.run = true ∧ s.seq.interval.toNat ≤ s.seq.elapsed.toNat + 1 ∧
        s.seq.shown.toNat + 1 ≠ s.seq.n.toNat * s.seqCfg.passes.toNat) :=
  ⟨⟨legalStopped (by decide) (by decide) (by decide) rfl rfl rfl rfl, rfl⟩,
    ⟨playing_legal (by decide), by decide⟩, ⟨playing_legal (by decide), by decide⟩,
    ⟨playing_legal (by decide), by decide⟩⟩

/-- A legal state for each case of the tick: inside an interval, the last tick of all, the wrap to frame 0;
and a tick that moves the sequencer. -/
theorem witness_OnlyTicksAdvanceTheSequence :
    (let s := playingAt 0 0 0 0x1300; s.Inv ∧ s.seqTick.seq.shown = s.seq.shown) ∧
    (let s := playingAt 3 2 3 0x1318; s.Inv ∧ s.seqTick.seq.run = false) ∧
    (let s : State := { playingAt 3 2 3 0x1318 with
        seqCfg := { base := 0x1300, duration := 10, minInterval := 0, passes := 0 } };
      s.Inv ∧ s.seqTick.seq.run = true ∧ s.seqTick.seq.index = 0) ∧
    ∃ s t : State, step s = .next t ∧ s.seq ≠ t.seq ∧ s.schedule.head? = some .tick :=
  ⟨⟨playing_legal (by decide), by decide⟩, ⟨playing_legal (by decide), by decide⟩,
    ⟨⟨(by decide : idle.params.wf), List.Pairwise.nil, nofun, nofun, nofun, .inl rfl, fun _ => rfl,
        Nat.zero_le 3, fun _ => ⟨(by decide : 0 < 4), (by decide : 0 < 4), (by decide : 0 < 2),
          (by decide : 0x1300 + 4 * 4 * 2 ≤ 0x10000), (by decide : 3 < 4), (by decide : 2 < 3), rfl,
          fun h => absurd rfl h⟩⟩, by decide⟩,
    ⟨{ playingAt 0 0 0 0x1300 with schedule := [.tick] }, _, rfl, by decide, rfl⟩⟩

/-- Four frames of 4×2, one pass: 12 ticks of the timeline, the last at m = 11, then m = 12. -/
theorem witness_PlaybackFollowsTheTimeline :
    let s : State :=
      { idle with
        cfg := { CeConfig.reset with canvasW := 4, canvasH := 2, frames := 4 }
        seqCfg := { base := 0x1300, duration := 10, minInterval := 0, passes := 1 } }
    (s.params.wf ∧ s.seqRefusal = 0 ∧ s.seqCfg.passes.toNat ≠ 0) ∧
      11 < s.seqStart.seq.n.toNat * s.seqCfg.passes.toNat * s.seqStart.seq.interval.toNat ∧
      s.seqStart.seq.n.toNat * s.seqCfg.passes.toNat * s.seqStart.seq.interval.toNat ≤ 12 := by decide

/-! ### Registers, interrupts, ports -/

theorem witness_LockedWritesAreDroppedAndReported :
    (busyWith []).ceBusy = true ∧ (playingAt 0 0 0 0x1300).seq.run = true ∧ idle.ceBusy = false ∧
      idle.seq.run = false := by decide

theorem witness_ConfigurationIsFixedWhileInUse :
    ∃ s t : State, step s = .next t ∧ s.schedule.head? ≠ some .resetInput ∧ s.ceBusy = true ∧
      s.seq.run = true :=
  ⟨{ readyPlaying with schedule := [.regWrite .b4 0x40000024 0] }, _, rfl, by decide, rfl, rfl⟩

/-- The clauses: the addresses next below and next above the block, a narrow access, a misaligned one, an
aligned one, the first reserved offset and the last
offset of the block, a read-only and a write-only register. -/
theorem witness_RegisterPortFollowsTheAccessRules :
    (0x3FFFFFFF < idle.params.regBase ∧ idle.params.regBase + 256 ≤ 0x40000100) ∧
      (0 < 256 ∧ Width.b1 ≠ .b4) ∧ (0xFF < 256 ∧ 0xFF % 4 ≠ 0 ∧ 0x74 ≤ 0xFF) ∧ (0x74 < 256 ∧ 0x74 ≤ 0x74) ∧
      0x70 ∈ [0x00, 0x08, 0x10, 0x14, 0x18, 0x1C, 0x20, 0x54, 0x58, 0x5C, 0x60, 0x64, 0x68, 0x6C, 0x70] ∧
      (0x40 = 0x04 ∨ 0x40 = 0x40) ∧ 0x40 % 4 = 0 := by decide

/-- A host write of 1 to every bit but the pending one. -/
theorem witness_InterruptLineOfStickyBits :
    Irq.lockViol ≠ .ceDone ∧ (idle.setIrq .lockViol).irqPending .lockViol = true ∧
    ∃ s t : State, step s = .next t ∧ s.irqPending .lockViol = true ∧
      s.schedule.head? ≠ some .resetInput ∧
      ∀ w, s.schedule.head? = some (.regWrite .b4 (s.regAddr .irqStatus) w) →
        w.getLsbD Irq.lockViol.bit = false :=
  ⟨by decide, by decide, { idle.setIrq .lockViol with schedule := [.regWrite .b4 0x40000038 0x7F] }, _, rfl,
    by decide, by decide, fun w h => by
      have : w = 0x7F#32 := by
        simp only [List.head?_cons, Option.some.injEq, Event.regWrite.injEq] at h
        exact h.2.2.symm
      rw [this]; decide⟩

/-- A misaligned access, one that reaches LMEM_SIZE, the last word of LMEM, and a half word of which only
the upper byte is presented. -/
theorem witness_HostMemoryPortReadsBackWrites :
    1 % Width.b2.bytes ≠ 0 ∧
    (0x10000 % Width.b1.bytes = 0 ∧ idle.params.lmemSize < 0x10000 + Width.b1.bytes) ∧
    (0xFFFC % Width.b4.bytes = 0 ∧ 0xFFFC + Width.b4.bytes ≤ idle.params.lmemSize ∧
      idle.ceBusy = false) ∧
    (let s : State := { playingAt 0 0 0 0x1301 with seqCfg := { SeqConfig.reset with base := 0x1301 } };
      s.seq.run = true ∧ 0x1300 % Width.b2.bytes = 0 ∧ s.activeSet.holds 0x1300 = false ∧
        (⟨0x1300, Width.b2.bytes⟩ : Span).holds 0x1301 = true ∧ s.activeSet.holds 0x1301 = true) := by
  decide

/-- A run that has touched its command at [0x100, 0x120). -/
def touched : State := (busyWith []).touch [⟨0x100, 32⟩]

/-- A host write to the last touched byte, to the first untouched one, to a byte the run goes on to touch;
a disturbed run that goes on; and commands disturbed in each of the two ways. -/
theorem witness_RacingHostWritesTaintTheRun :
    (touched.ceBusy = true ∧ 0x11F % Width.b1.bytes = 0 ∧ 0x120 % Width.b1.bytes = 0 ∧
      0x120 + Width.b1.bytes ≤ touched.params.lmemSize) ∧
    (∃ k < Width.b1.bytes, 0x11F + k ∈ ([] : List Nat) ∨
      ∃ I ∈ touched.race.touched, I.holds (0x11F + k) = true) ∧
    (∀ k < Width.b1.bytes, 0x120 + k ∉ ([] : List Nat) ∧
      ∀ I ∈ touched.race.touched, I.holds (0x120 + k) = false) ∧
    (after (hostMemWrite .b1 0x11F 0 [] touched)).race.tainted = true ∧
    (after (hostMemWrite .b1 0x120 0 [0x120] touched)).race.tainted = true ∧
    (∃ s t : State, step s = .next t ∧ s.ceBusy = true ∧ s.race.tainted = true ∧ t.ceBusy = true) := by
  refine ⟨by decide, ⟨0, by decide, .inr ⟨⟨0x100, 32⟩, by decide, by decide⟩⟩, by decide, by decide,
    by decide, ⟨{ touched with race := { Race.clear with tainted := true }, schedule := [.tick] }, _, rfl, rfl,
      rfl, rfl⟩⟩

/-- A touch just above and just below the noted bytes leaves a run undisturbed, one of the last noted byte
does not; a command that is not disturbed; a host write and an engine's step that disturb. -/
theorem witness_RacingHostWritesTaintTheRun_others :
    (ready.touch [⟨0x1000, 8⟩, ⟨0x0FFE, 1⟩]).race.tainted = false ∧
    (ready.touch [⟨0x4003, 1⟩]).race.tainted = true ∧
    (∃ t : State, ¬ ready.Disturbed (.inv .u16 0x1000 2 2 0x1008) ∧ ready.ceBusy = true ∧
      exec (.inv .u16 0x1000 2 2 0x1008) ready = .next t) ∧
    (∃ s t : State, step s = .next t ∧ s.race.tainted = false ∧ t.race.tainted = true ∧
      s.schedule.head? = some (.memWrite .b1 0x11F 0 [])) ∧
    (∃ s t : State, step s = .next t ∧ s.race.tainted = false ∧ t.race.tainted = true ∧ s.schedule = []) :=
  ⟨by decide, by decide, ⟨_, notDisturbed (by decide), rfl, rfl⟩,
    ⟨{ touched with schedule := [.memWrite .b1 0x11F 0 []] }, _, rfl, rfl, by decide, rfl⟩,
    ⟨{ busyWith (cells 0x100 (2 :: List.replicate 31 0)) with
        race := { Race.clear with hostWrites := [⟨0x11F, 1⟩] } }, _, rfl, rfl, by decide, rfl⟩⟩

theorem witness_RacingHostWritesTaintTheRun_commands :
    (∃ s t : State, s.Disturbed (.decomp .u16 0x1000 2 2 0x2000 0x2004) ∧ s.ceBusy = true ∧
      exec (.decomp .u16 0x1000 2 2 0x2000 0x2004) s = .next t ∧ t.ceBusy = true ∧
      (destinationsOf (.decomp .u16 0x1000 2 2 0x2000 0x2004) s)[1]? = some ⟨0x2004, 2, 2, .u8⟩ ∧
      (⟨0x2004, 2, 2, .u8⟩ : Surface).span.holds 0x2007 = true) ∧
    (∃ s t : State, s.Disturbed (.lutld .u16 0 256 256) ∧ s.ceBusy = true ∧
      exec (.lutld .u16 0 256 256) s = .next t ∧ t.ceBusy = true) :=
  ⟨⟨{ ready with race := { Race.clear with hostWrites := [⟨0x2003, 1⟩] } }, _,
      .inr ⟨⟨0x2003, 1⟩, by decide, ⟨0x2000, 2, 2, .u8⟩, by decide, notApart (by decide)⟩, rfl, rfl, rfl, rfl,
      by decide⟩,
    ⟨{ ready with race := { Race.clear with tainted := true }, params := ⟨0x20000, 0⟩ }, _, .inl rfl, rfl, rfl,
      rfl⟩⟩

/-- A half word of a touched and an untouched byte; and one of which the run goes on to touch the upper
byte. -/
theorem witness_HostReadsDuringARunAreFreeWhereTheyRace :
    let s := (busyWith []).touch [⟨0x100, 31⟩]
    (s.ceBusy = true ∧ 0x11E % Width.b2.bytes = 0 ∧ 0x11E + Width.b2.bytes ≤ s.params.lmemSize) ∧
    (∃ I ∈ s.race.touched, I.holds (0x11E + 0) = true) ∧
    (0x11E + 1 ∉ ([] : List Nat) ∧ ∀ I ∈ s.race.touched, I.holds (0x11E + 1) = false) ∧
    (after (hostMemRead .b2 0x11E [0x11E, 0x11F] s)).race.awaited = [0x11F] := by
  exact ⟨by decide, ⟨⟨0x100, 31⟩, by decide, by decide⟩, by decide, by decide⟩

/-- The last byte of the presented frame; no frame presented; the first row and the first column outside. -/
theorem witness_DisplayReadsThePresentedFrame :
    let s := playingAt 3 0 3 0x1318
    (s.seq.run = true ∧ s.Playing ∧ 1 < s.seq.h.toNat ∧ 3 < s.seq.w.toNat) ∧ idle.seq.run = false ∧
      s.seq.h.toNat ≤ 2 ∧ s.seq.w.toNat ≤ 4 :=
  ⟨⟨rfl, (playing_legal (by decide)).playing rfl, by decide, by decide⟩, by decide⟩

theorem witness_ResetInputGivesTheResetValues :
    ({ readyPlaying with schedule := [.resetInput, .tick] } : State).schedule = .resetInput :: [.tick] := rfl

theorem witness_ResetStateIsLegal : (⟨32, 0⟩ : Params).wf ∧ (⟨4294967296, 0⟩ : Params).wf := by decide

/-- A legal state and its next state. -/
theorem witness_EveryStepKeepsTheLegalStates :
    ∃ s t : State, s.Inv ∧ step s = .next t :=
  ⟨busyWith (cells 0x100 (1 :: List.replicate 31 0)), _, busy_legal _ (by decide), rfl⟩

/-- A step of the engine, and a step of another agent that stores nothing. -/
theorem witness_OnlyTheirAgentsWriteTableAndMemory :
    (∃ s t : State, step s = .next t ∧ s.schedule.head? ≠ some .resetInput ∧ s.ceBusy = true) ∧
    (∃ s t : State, step s = .next t ∧ s.schedule.head? ≠ some .resetInput ∧
      (∀ n a v races, s.schedule.head? ≠ some (.memWrite n a v races)) ∧
      (s.schedule ≠ [] ∧ s.schedule.head? ≠ some .ceStep)) :=
  ⟨⟨busyWith (cells 0x100 (1 :: List.replicate 31 0)), _, rfl, by decide, rfl⟩,
    ⟨{ idle with schedule := [.tick] }, _, rfl, by decide, by simp, by decide⟩⟩

end Sys2Proof.Tests
end

section
/-! PROOFS. 10_state.md: the two bits of CTRL. One equation per value of the bits and per state of the
engine; the statement about a write of any value is put together from them. -/

namespace Sys2Proof.Machine

/-! ## START and ABORT, by the state of the engine -/

/-- A START while busy is reported in bit 3 of IRQ_STATUS (10_state.md R36). -/
theorem State.startRun_of_busy {s : State} (hb : s.ceBusy = true) :
    s.startRun = { s with irqStatus := s.irqStatus ||| 8#8 } := by
  obtain ⟨-, he⟩ | ⟨hi, -⟩ := s.startRun_cases
  · exact he
  · simp [hb] at hi

theorem State.requestAbort_of_busy {s : State} (hb : s.ceBusy = true) :
    s.requestAbort = { s with abortPend := true } := by
  obtain ⟨-, he⟩ | ⟨hi, -⟩ := s.requestAbort_cases
  · exact he
  · simp [hb] at hi

theorem State.requestAbort_of_idle {s : State} (hi : s.ceBusy = false) : s.requestAbort = s := by
  obtain ⟨hb, -⟩ | ⟨-, he⟩ := s.requestAbort_cases
  · simp [hi] at hb
  · exact he

/-- An ABORT ends no run by itself, so the START of the same write still finds the engine busy. -/
@[simp] theorem State.requestAbort_ceBusy (s : State) : s.requestAbort.ceBusy = s.ceBusy := by
  obtain ⟨-, he⟩ | ⟨-, he⟩ := s.requestAbort_cases <;> rw [he]

/-! ## A write to CTRL, by the value of its two bits -/

theorem State.writeReg_ctrl_of_neither {s : State} {v : Word} (h0 : v.getLsbD 0 = false)
    (h1 : v.getLsbD 1 = false) : s.writeReg .ctrl v = s := by
  simp only [State.writeReg, State.writeCtrl, h0, h1, Bool.false_eq_true, reduceIte]

theorem State.writeReg_ctrl_of_start {s : State} {v : Word} (h0 : v.getLsbD 0 = true)
    (h1 : v.getLsbD 1 = false) : s.writeReg .ctrl v = s.startRun := by
  simp only [State.writeReg, State.writeCtrl, h0, h1, Bool.false_eq_true, reduceIte]

theorem State.writeReg_ctrl_of_abort {s : State} {v : Word} (h0 : v.getLsbD 0 = false)
    (h1 : v.getLsbD 1 = true) : s.writeReg .ctrl v = s.requestAbort := by
  simp only [State.writeReg, State.writeCtrl, h0, h1, Bool.false_eq_true, reduceIte]

/-- ABORT first, then START (10_state.md R25). -/
theorem State.writeReg_ctrl_of_both {s : State} {v : Word} (h0 : v.getLsbD 0 = true)
    (h1 : v.getLsbD 1 = true) : s.writeReg .ctrl v = s.requestAbort.startRun := by
  simp only [State.writeReg, State.writeCtrl, h0, h1, reduceIte]

/-- The value 1 has START's bit alone. -/
theorem State.writeReg_ctrl_one (s : State) : s.writeReg .ctrl 1 = s.startRun :=
  State.writeReg_ctrl_of_start (by decide) (by decide)

/-! ## Both bits in one write, by the state of the engine -/

theorem State.requestAbort_startRun_of_busy {s : State} (hb : s.ceBusy = true) :
    s.requestAbort.startRun =
      { s with abortPend := true, irqStatus := s.irqStatus ||| 8#8 } := by
  rw [State.startRun_of_busy (by simpa using hb), State.requestAbort_of_busy hb]

theorem State.requestAbort_startRun_of_idle {s : State} (hi : s.ceBusy = false) :
    s.requestAbort.startRun = s.startRun := by
  rw [State.requestAbort_of_idle hi]

/-- Settles O13, by the value of the two bits and then by whether a run is busy. -/
theorem abortAndStartInOneWrite : Obligations.AbortAndStartInOneWrite := by
  intro s v
  refine ⟨State.writeReg_ctrl_of_neither, fun h0 h1 => ?start, fun h0 h1 => ?abort,
    fun h0 h1 => ?both, rfl⟩
  case start => rw [State.writeReg_ctrl_of_start h0 h1, State.writeReg_ctrl_one]
  case abort =>
    rw [State.writeReg_ctrl_of_abort h0 h1]
    split
    case isTrue hb => exact State.requestAbort_of_busy hb
    case isFalse hb => exact State.requestAbort_of_idle (by simpa using hb)
  case both =>
    rw [State.writeReg_ctrl_of_both h0 h1]
    split
    case isTrue hb => exact State.requestAbort_startRun_of_busy hb
    case isFalse hb =>
      rw [State.requestAbort_startRun_of_idle (by simpa using hb), State.writeReg_ctrl_one]

end Sys2Proof.Machine
end

section
/-! PROOFS. 30_encoding.md R72: what the decoder reports. One lemma per branch of the decoder, then the
outcome that the engine takes from it. -/

namespace Sys2Proof

/-! ## The opcode map -/

/-- The assigned opcodes of 30_encoding.md R70, as bytes. -/
theorem Opcode.all_map_byte :
    Opcode.all.map Opcode.byte = [0x01, 0x02, 0x10, 0x11, 0x12, 0x20, 0x30, 0x31, 0x32] := rfl

theorem Opcode.ofByte_eq_none {b : Byte} (h : b ∉ Opcode.all.map Opcode.byte) :
    Opcode.ofByte b = none := by
  refine List.find?_eq_none.2 fun o ho => ?_
  have hne : o.byte ≠ b := fun e => h (List.mem_map.2 ⟨o, ho, e⟩)
  simpa using hne

/-! ## The first reserved word that is not 0 -/

theorem Opcode.reservedWords_ascending (o : Opcode) : o.reservedWords.Pairwise (· < ·) := by
  cases o <;> decide

/-- The reserved words are searched upwards, so the word that is found is the least offending one. -/
theorem Opcode.find?_reservedWords_of_first {o : Opcode} {W : CmdWords} {k : Nat}
    (hk : k ∈ o.reservedWords) (hne : W.word k ≠ 0)
    (hlt : ∀ j ∈ o.reservedWords, j < k → W.word j = 0) :
    o.reservedWords.find? (fun j => W.word j ≠ 0) = some k := by
  obtain ⟨below, above, hsplit⟩ := List.append_of_mem hk
  have hasc := o.reservedWords_ascending
  rw [hsplit, List.pairwise_append] at hasc
  obtain ⟨-, -, hbelow⟩ := hasc
  refine List.find?_eq_some_iff_append.2 ⟨by simpa using hne, below, above, hsplit, fun j hj => ?_⟩
  have hzero : W.word j = 0 := hlt j (by simp [hsplit, hj]) (hbelow j hj k List.mem_cons_self)
  simpa using hzero

theorem Opcode.find?_reservedWords_of_zero {o : Opcode} {W : CmdWords}
    (hz : ∀ k ∈ o.reservedWords, W.word k = 0) :
    o.reservedWords.find? (fun j => W.word j ≠ 0) = none :=
  List.find?_eq_none.2 fun k hk => by simpa using hz k hk

/-! ## The branches of the decoder -/

theorem decode_of_unassigned {W : CmdWords}
    (h : W.w0.extractLsb' 0 8 ∉ Opcode.all.map Opcode.byte) : decode W = .error .opcode := by
  rw [decode, Opcode.ofByte_eq_none h]

theorem decode_of_assigned {W : CmdWords} {o : Opcode} (h : W.w0.extractLsb' 0 8 = o.byte) :
    decode W = o.decode W := by
  rw [decode, h, Opcode.ofByte_byte]

theorem Opcode.decode_of_mismatch {o : Opcode} {W : CmdWords} (h : W.w0 &&& o.mask ≠ o.pattern) :
    o.decode W = .error .reservedBits := by
  rw [Opcode.decode, if_neg h]

theorem Opcode.decode_of_first {o : Opcode} {W : CmdWords} {k : Nat}
    (h : W.w0 &&& o.mask = o.pattern) (hk : k ∈ o.reservedWords) (hne : W.word k ≠ 0)
    (hlt : ∀ j ∈ o.reservedWords, j < k → W.word j = 0) :
    o.decode W = .error (.reservedWord k) := by
  rw [Opcode.decode, if_pos h, Opcode.find?_reservedWords_of_first hk hne hlt]

theorem Opcode.decode_of_match {o : Opcode} {W : CmdWords} (h : W.w0 &&& o.mask = o.pattern)
    (hz : ∀ k ∈ o.reservedWords, W.word k = 0) : o.decode W = .ok (o.instr W) := by
  rw [Opcode.decode, if_pos h, Opcode.find?_reservedWords_of_zero hz]

namespace Machine

/-! ## What the engine does with the decoder's answer -/

theorem decodeExec_of_error {W : CmdWords} {e : Illegal} (h : decode W = .error e) (s : State) :
    decodeExec W s = .next (s.takeFault (illegalRaise e)) := by
  rw [decodeExec, h]

theorem decodeExec_of_ok {W : CmdWords} {i : Instr} (h : decode W = .ok i) (s : State) :
    decodeExec W s = exec i s := by
  rw [decodeExec, h]

/-- Settles O4, one branch of the decoder after the other. -/
theorem decoderReportsTheFirstViolation : Obligations.DecoderReportsTheFirstViolation := by
  intro W s
  refine ⟨fun hun => ?i1, fun o hopc => ?assigned⟩
  case i1 =>
    rw [← Opcode.all_map_byte] at hun
    exact decodeExec_of_error (decode_of_unassigned hun) s
  case assigned =>
    have hdec : decode W = o.decode W := decode_of_assigned hopc
    refine ⟨fun hne => ?i2, fun hmatch => ⟨fun k hk hnz hlt => ?i3, fun hz => ?runs⟩⟩
    case i2 => exact decodeExec_of_error (hdec.trans (Opcode.decode_of_mismatch hne)) s
    case i3 => exact decodeExec_of_error (hdec.trans (Opcode.decode_of_first hmatch hk hnz hlt)) s
    case runs => exact decodeExec_of_ok (hdec.trans (Opcode.decode_of_match hmatch hz)) s

end Machine

end Sys2Proof
end

section
/-! PROOFS. 40_control.md R77: the write of 1 to CTRL.START, from the equation of an accepted START and
that of an ignored one. -/

namespace Sys2Proof.Machine

/-- An accepted START begins a run; the ignored one is `State.startRun_of_busy`. -/
theorem State.startRun_of_idle {s : State} (hi : s.ceBusy = false) : s.startRun = s.beginRun := by
  obtain ⟨hb, -⟩ | ⟨-, he⟩ := s.startRun_cases
  · simp [hi] at hb
  · exact he

/-- Settles O12, by whether a run is busy: the new run's record is `State.beginRun`'s own, and all else is
what R77 lists. -/
theorem startBeginsARunOnlyWhenIdle : Obligations.StartBeginsARunOnlyWhenIdle := by
  intro s
  rw [State.writeReg_ctrl_one]
  refine ⟨fun hi => ?idle, State.startRun_of_busy⟩
  case idle =>
    rw [State.startRun_of_idle hi]
    rfl

end Sys2Proof.Machine
end

section
/-! PROOFS. 42_compositor.md R92 to R94: the scaled size, the box filter and the placement. The size is
reasoned about through the exact scale, and the box filter through its monotonicity and its value on a
constant image. -/

namespace Sys2Proof.Machine

/-! ## The scaled size -/

/-- The exact scale factor `min(CW/w, CH/h)` of R92. -/
def canvasScale (w h cw ch : Nat) : ℚ := min ((cw : ℚ) / w) ((ch : ℚ) / h)

/-- A dimension times a scale, floored, but at least 1. -/
def scaledLen (n : Nat) (r : ℚ) : Nat := max 1 ⌊(n : ℚ) * r⌋₊

theorem scaledLen_pos (n : Nat) (r : ℚ) : 0 < scaledLen n r :=
  Nat.lt_of_lt_of_le Nat.one_pos (Nat.le_max_left _ _)

theorem scaledLen_le {n m : Nat} {r : ℚ} (hm : 1 ≤ m) (h : (n : ℚ) * r ≤ m) : scaledLen n r ≤ m :=
  Nat.max_le.2 ⟨hm, Nat.floor_le_of_le h⟩

/-- The floor of R92 is the quotient of naturals that `scale_dims` takes. -/
theorem scaledLen_div (n c d : Nat) : scaledLen n ((c : ℚ) / d) = max 1 (n * c / d) := by
  rw [scaledLen, ← mul_div_assoc, ← Nat.cast_mul, Nat.floor_div_eq_div]

theorem scaledLen_div_self {n : Nat} (hn : 0 < n) (c : Nat) : scaledLen n ((c : ℚ) / n) = max 1 c := by
  rw [scaledLen_div, Nat.mul_div_cancel_left c hn]

section
variable {w h cw ch : Nat}

theorem scaleDims_of_fits (hf : w ≤ cw ∧ h ≤ ch) : scaleDims w h cw ch = (w, h) := if_pos hf

/-- A source that does not fit takes the smaller of the two ratios, whichever dimension limits it. -/
theorem scaleDims_of_not_fits (hw : 0 < w) (hh : 0 < h) (hf : ¬ (w ≤ cw ∧ h ≤ ch)) :
    scaleDims w h cw ch =
      (scaledLen w (canvasScale w h cw ch), scaledLen h (canvasScale w h cw ch)) := by
  have hratio : (cw : ℚ) / w ≤ (ch : ℚ) / h ↔ cw * h ≤ ch * w := by
    rw [div_le_div_iff₀ (Nat.cast_pos.2 hw) (Nat.cast_pos.2 hh)]
    exact_mod_cast Iff.rfl
  rw [scaleDims, if_neg hf, canvasScale]
  split
  case isTrue hwidth =>
    rw [min_eq_left (hratio.2 hwidth), scaledLen_div_self hw, scaledLen_div]
  case isFalse hheight =>
    rw [min_eq_right (le_of_not_ge (mt hratio.1 hheight)), scaledLen_div_self hh, scaledLen_div]

theorem mul_canvasScale_le_width (hw : 0 < w) : (w : ℚ) * canvasScale w h cw ch ≤ cw := by
  rw [← le_div_iff₀' (Nat.cast_pos.2 hw)]
  exact min_le_left _ _

theorem mul_canvasScale_le_height (hh : 0 < h) : (h : ℚ) * canvasScale w h cw ch ≤ ch := by
  rw [← le_div_iff₀' (Nat.cast_pos.2 hh)]
  exact min_le_right _ _

theorem canvasScale_le_one (hf : ¬ (w ≤ cw ∧ h ≤ ch)) : canvasScale w h cw ch ≤ 1 := by
  rcases not_and_or.1 hf with hwide | htall
  · exact min_le_of_left_le (div_le_one_of_le₀ (Nat.cast_le.2 (le_of_not_ge hwide)) w.cast_nonneg)
  · exact min_le_of_right_le (div_le_one_of_le₀ (Nat.cast_le.2 (le_of_not_ge htall)) h.cast_nonneg)

theorem scaleDims_pos (hw : 0 < w) (hh : 0 < h) :
    0 < (scaleDims w h cw ch).1 ∧ 0 < (scaleDims w h cw ch).2 := by
  by_cases hf : w ≤ cw ∧ h ≤ ch
  · rw [scaleDims_of_fits hf]
    exact ⟨hw, hh⟩
  · rw [scaleDims_of_not_fits hw hh hf]
    exact ⟨scaledLen_pos _ _, scaledLen_pos _ _⟩

theorem scaleDims_le_canvas (hw : 0 < w) (hh : 0 < h) (hcw : 1 ≤ cw) (hch : 1 ≤ ch) :
    (scaleDims w h cw ch).1 ≤ cw ∧ (scaleDims w h cw ch).2 ≤ ch := by
  by_cases hf : w ≤ cw ∧ h ≤ ch
  · rwa [scaleDims_of_fits hf]
  · rw [scaleDims_of_not_fits hw hh hf]
    exact ⟨scaledLen_le hcw (mul_canvasScale_le_width hw), scaledLen_le hch (mul_canvasScale_le_height hh)⟩

theorem scaleDims_le_source (hw : 0 < w) (hh : 0 < h) :
    (scaleDims w h cw ch).1 ≤ w ∧ (scaleDims w h cw ch).2 ≤ h := by
  by_cases hf : w ≤ cw ∧ h ≤ ch
  · rw [scaleDims_of_fits hf]
    exact ⟨le_rfl, le_rfl⟩
  · have hone := canvasScale_le_one hf
    rw [scaleDims_of_not_fits hw hh hf]
    exact ⟨scaledLen_le hw (mul_le_of_le_one_right w.cast_nonneg hone),
      scaledLen_le hh (mul_le_of_le_one_right h.cast_nonneg hone)⟩

end

/-- Settles O26, from the exact scale: it is at most either ratio, and at most 1 for a source that does
not fit. -/
theorem scaledSizeIsTheFlooredUniformScale : Obligations.ScaledSizeIsTheFlooredUniformScale := by
  intro w h cw ch hw hh
  obtain ⟨hgrow1, hgrow2⟩ := scaleDims_le_source (cw := cw) (ch := ch) hw hh
  refine ⟨fun hcw hch => scaleDims_of_fits ⟨hcw, hch⟩, scaleDims_of_not_fits hw hh,
    scaleDims_le_canvas hw hh, hgrow1, hgrow2, fun hzero => ?zeroCanvas⟩
  case zeroCanvas =>
    obtain ⟨hpos1, hpos2⟩ := scaleDims_pos (cw := cw) (ch := ch) hw hh
    rcases hzero with rfl | rfl
    · exact .inl hpos1
    · exact .inr hpos2

/-! ## The weights of the box filter -/

/-- The subtraction of naturals is the clipped one of R93. -/
theorem boxWeight_eq_clipped (n sn j u : Nat) :
    (boxWeight n sn j u : ℤ) =
      max 0 (min (((u : ℤ) + 1) * sn) (((j : ℤ) + 1) * n) - max ((u : ℤ) * sn) ((j : ℤ) * n)) := by
  have hclip : ∀ a b : Nat, ((a - b : Nat) : ℤ) = max 0 ((a : ℤ) - b) := by omega
  rw [boxWeight, hclip]
  push_cast
  rfl

/-- An output cell inside the image is covered in full. -/
theorem boxWeight_sum {sn j : Nat} (hj : j < sn) (n : Nat) :
    ∑ u ∈ Finset.range n, boxWeight n sn j u = n := by
  have hinside : (j + 1) * n ≤ n * sn := by
    rw [Nat.mul_comm n]
    exact Nat.mul_le_mul_right n hj
  rw [boxWeight_sum_below, Nat.min_eq_right hinside, Nat.succ_mul, Nat.add_sub_cancel_left]

theorem eq_of_boxWeight_same_pos {n j u : Nat} (hpos : 0 < boxWeight n n j u) : u = j := by
  by_contra hne
  rw [boxWeight_same, if_neg hne] at hpos
  exact Nat.lt_irrefl 0 hpos

section
variable {w h sw sh i j : Nat}

theorem boxWeight_sum_area (hi : i < sh) (hj : j < sw) :
    ∑ v ∈ Finset.range h, ∑ u ∈ Finset.range w, boxWeight w sw j u * boxWeight h sh i v = w * h := by
  calc ∑ v ∈ Finset.range h, ∑ u ∈ Finset.range w, boxWeight w sw j u * boxWeight h sh i v
      = (∑ u ∈ Finset.range w, boxWeight w sw j u) * ∑ v ∈ Finset.range h, boxWeight h sh i v := by
        rw [Finset.sum_mul_sum, Finset.sum_comm]
    _ = w * h := by rw [boxWeight_sum hj, boxWeight_sum hi]

/-! ## The mean -/

theorem boxAcc_eq_sum (pix : Nat → Nat → Nat) :
    boxAcc w h pix sw sh i j =
      ∑ v ∈ Finset.range h, ∑ u ∈ Finset.range w, boxWeight w sw j u * boxWeight h sh i v * pix v u := by
  simp only [boxAcc, sumBelow_eq]

theorem boxAcc_const (hi : i < sh) (hj : j < sw) (c : Nat) :
    boxAcc w h (fun _ _ => c) sw sh i j = w * h * c := by
  rw [boxAcc_eq_sum, ← boxWeight_sum_area (w := w) (h := h) hi hj]
  simp only [Finset.sum_mul]

/-- Samples outside the footprint have weight 0 and do not count. -/
theorem boxAcc_mono {p q : Nat → Nat → Nat}
    (hpq : ∀ v u, v < h → u < w → 0 < boxWeight w sw j u * boxWeight h sh i v → p v u ≤ q v u) :
    boxAcc w h p sw sh i j ≤ boxAcc w h q sw sh i j := by
  rw [boxAcc_eq_sum, boxAcc_eq_sum]
  refine Finset.sum_le_sum fun v hv => Finset.sum_le_sum fun u hu => ?_
  rcases Nat.eq_zero_or_pos (boxWeight w sw j u * boxWeight h sh i v) with hzero | hpos
  · simp only [hzero, Nat.zero_mul, le_refl]
  · exact Nat.mul_le_mul_left _ (hpq v u (Finset.mem_range.1 hv) (Finset.mem_range.1 hu) hpos)

theorem box_mono {p q : Nat → Nat → Nat}
    (hpq : ∀ v u, v < h → u < w → 0 < boxWeight w sw j u * boxWeight h sh i v → p v u ≤ q v u) :
    box w h p sw sh i j ≤ box w h q sw sh i j :=
  Nat.div_le_div_right (Nat.add_le_add_right (Nat.mul_le_mul_left 2 (boxAcc_mono hpq)) _)

theorem box_const (hw : 0 < w) (hh : 0 < h) (hi : i < sh) (hj : j < sw) (c : Nat) :
    box w h (fun _ _ => c) sw sh i j = c := by
  have harea : 0 < w * h := Nat.mul_pos hw hh
  rw [box, boxAcc_const hi hj, ← Nat.mul_assoc, Nat.mul_add_div (by omega), Nat.div_eq_of_lt (by omega),
    Nat.add_zero]

/-- The rounded mean lies between any bounds of the covered samples. -/
theorem box_bounds (hw : 0 < w) (hh : 0 < h) (hi : i < sh) (hj : j < sw) {pix : Nat → Nat → Nat}
    {lo top : Nat}
    (hb : ∀ v u, v < h → u < w → 0 < boxWeight w sw j u * boxWeight h sh i v →
      lo ≤ pix v u ∧ pix v u ≤ top) :
    lo ≤ box w h pix sw sh i j ∧ box w h pix sw sh i j ≤ top := by
  constructor
  · calc lo = box w h (fun _ _ => lo) sw sh i j := (box_const hw hh hi hj lo).symm
      _ ≤ box w h pix sw sh i j := box_mono fun v u hv hu hpos => (hb v u hv hu hpos).1
  · calc box w h pix sw sh i j
        ≤ box w h (fun _ _ => top) sw sh i j := box_mono fun v u hv hu hpos => (hb v u hv hu hpos).2
      _ = top := box_const hw hh hi hj top

/-- At the source's own size the footprint is one sample, which bounds the mean on both sides. -/
theorem box_same (hw : 0 < w) (hh : 0 < h) (hi : i < h) (hj : j < w) (pix : Nat → Nat → Nat) :
    box w h pix w h i j = pix i j := by
  have hcover : ∀ v u, v < h → u < w → 0 < boxWeight w w j u * boxWeight h h i v →
      pix i j ≤ pix v u ∧ pix v u ≤ pix i j := by
    intro v u _ _ hpos
    obtain ⟨hu, hv⟩ := CanonicallyOrderedAdd.mul_pos.1 hpos
    rw [eq_of_boxWeight_same_pos hu, eq_of_boxWeight_same_pos hv]
    exact ⟨le_rfl, le_rfl⟩
  obtain ⟨hlo, hhi⟩ := box_bounds hw hh hi hj hcover
  exact Nat.le_antisymm hhi hlo

/-- Rounding half up is the floor of the mean plus one half. -/
theorem box_eq_floor (hw : 0 < w) (hh : 0 < h) (pix : Nat → Nat → Nat) :
    box w h pix sw sh i j = ⌊(boxAcc w h pix sw sh i j : ℚ) / (w * h : Nat) + 1 / 2⌋₊ := by
  have harea : ((w * h : Nat) : ℚ) ≠ 0 := Nat.cast_ne_zero.2 (Nat.mul_pos hw hh).ne'
  rw [box, ← Nat.floor_div_eq_div (K := ℚ), Nat.cast_add, Nat.cast_mul 2, Nat.cast_mul 2, Nat.cast_ofNat]
  congr 1
  field_simp

end

/-- Settles O27: the weights by axis, the value as a floor, and the bounds and the identity from the
monotonicity of the filter. -/
theorem boxFilterIsTheAreaMean : Obligations.BoxFilterIsTheAreaMean := by
  intro w h sw sh i j pix hw hh hi hj
  refine ⟨boxWeight_eq_clipped w sw j, boxWeight_eq_clipped h sh i, boxWeight_sum hj w,
    boxWeight_sum hi h, boxWeight_sum_area hi hj, ?mean, fun _ _ => box_bounds hw hh hi hj, ?same⟩
  case mean =>
    rw [box_eq_floor hw hh, boxAcc_eq_sum]
    simp only [Nat.cast_sum]
  case same =>
    rintro rfl rfl
    exact box_same hw hh hi hj pix

/-! ## The placement -/

@[simp] theorem placement_true (canvas size : Nat) : placement true canvas size = (canvas - size) / 2 := rfl

@[simp] theorem placement_false (canvas size : Nat) : placement false canvas size = 0 := rfl

/-- Bit 0 of CONFIG is CENTER (10_state.md R32). -/
theorem State.readReg_config_bit_zero (s : State) : (s.readReg .config).getLsbD 0 = s.cfg.center := by
  simp [State.readReg, CeConfig.center]

theorem placement_add_le {canvas size : Nat} (hfit : size ≤ canvas) (b : Bool) :
    placement b canvas size + size ≤ canvas := by
  cases b with
  | false => rwa [placement_false, Nat.zero_add]
  | true =>
    rw [placement_true]
    omega

/-- The trailing padding is the leading padding, or one more when the padding is odd. -/
theorem placement_true_padding (canvas size : Nat) :
    placement true canvas size ≤ canvas - size - placement true canvas size ∧
      canvas - size - placement true canvas size ≤ placement true canvas size + 1 := by
  rw [placement_true]
  omega

/-- Settles O28, by the value of CENTER. -/
theorem placementCentresWithTrailingBias : Obligations.PlacementCentresWithTrailingBias := by
  intro canvas size s hfit
  rw [State.readReg_config_bit_zero]
  obtain ⟨hleading, htrailing⟩ := placement_true_padding canvas size
  refine ⟨fun hcenter => ?centred, fun hcenter => ?atOrigin, hleading, htrailing, placement_add_le hfit⟩
  case centred => rw [hcenter, placement_true]
  case atOrigin => rw [hcenter, placement_false]

end Sys2Proof.Machine
end

section
/-! PROOFS. 43_bitplane_dither.md R97, R98, R103: the twelve high bits of a sample and its dither frames.
Both operators compare the frame number with one threshold, `upCount`, so each fact about frames is said
once for both. -/

namespace Sys2Proof.Machine

/-! ## The twelve high bits -/

theorem value12_eq_div (v : Nat) : value12 v = v / 16 := Nat.shiftRight_eq_div_pow v 4

theorem baseOf_eq_div (v : Nat) : baseOf v = value12 v / 16 := Nat.shiftRight_eq_div_pow (value12 v) 4

theorem remainderOf_eq_mod (v : Nat) : remainderOf v = value12 v % 16 :=
  Nat.and_two_pow_sub_one_eq_mod (value12 v) 4

theorem baseOf_eq_div_256 (v : Nat) : baseOf v = v / 256 := by
  rw [baseOf_eq_div, value12_eq_div, Nat.div_div_eq_div_mul]

theorem remainderOf_lt (v : Nat) : remainderOf v < 16 :=
  remainderOf_eq_mod v ▸ Nat.mod_lt _ (by decide)

theorem value12_le {v : Nat} (hv : v < 65536) : value12 v ≤ 4095 := by
  rw [value12_eq_div]
  omega

theorem baseOf_le {v : Nat} (hv : v < 65536) : baseOf v ≤ 255 := by
  rw [baseOf_eq_div_256]
  omega

theorem baseOf_mul_add_remainderOf (v : Nat) : 16 * baseOf v + remainderOf v = value12 v := by
  rw [baseOf_eq_div, remainderOf_eq_mod, Nat.div_add_mod]

/-! ## The low bits are dropped -/

theorem value12_replace_low (v : Nat) {low : Nat} (hlow : low < 16) :
    value12 (v / 16 * 16 + low) = value12 v := by
  rw [value12_eq_div, value12_eq_div]
  omega

theorem baseOf_congr {v v' : Nat} (h : value12 v = value12 v') : baseOf v = baseOf v' := by
  rw [baseOf, h, baseOf]

theorem remainderOf_congr {v v' : Nat} (h : value12 v = value12 v') : remainderOf v = remainderOf v' := by
  rw [remainderOf, h, remainderOf]

theorem frameVal_congr {v v' : Nat} (h : value12 v = value12 v') (ge : Bool) (f : Nat) :
    frameVal ge v f = frameVal ge v' f := by
  rw [frameVal, baseOf_congr h, remainderOf_congr h, frameVal]

/-! ## The value of a frame -/

/-- The frame number below which a sample goes up: its remainder, or one more with CMP_GE. -/
def upCount (ge : Bool) (v : Nat) : Nat := remainderOf v + ge.toNat

@[simp] theorem upCount_false (v : Nat) : upCount false v = remainderOf v := rfl

@[simp] theorem upCount_true (v : Nat) : upCount true v = remainderOf v + 1 := rfl

theorem upCount_le (ge : Bool) (v : Nat) : upCount ge v ≤ 16 :=
  Nat.add_le_add (Nat.le_of_lt_succ (remainderOf_lt v)) ge.toNat_le

theorem goesUp_remainderOf (ge : Bool) (v f : Nat) :
    goesUp ge (remainderOf v) f = decide (f < upCount ge v) := by
  cases ge with
  | false => rfl
  | true => exact decide_eq_decide.2 Nat.lt_succ_iff.symm

theorem frameVal_eq_min (ge : Bool) (v f : Nat) :
    frameVal ge v f = min 255 (baseOf v + if f < upCount ge v then 1 else 0) := by
  rw [frameVal, goesUp_remainderOf]
  exact congrArg (fun d => min 255 (baseOf v + d)) (apply_ite Bool.toNat _ true false)

/-- Below 255 nothing is clipped. -/
theorem frameVal_of_le_254 {v : Nat} (hb : baseOf v ≤ 254) (ge : Bool) (f : Nat) :
    frameVal ge v f = baseOf v + if f < upCount ge v then 1 else 0 := by
  rw [frameVal_eq_min]
  split <;> omega

theorem frameVal_of_eq_255 {v : Nat} (hb : baseOf v = 255) (ge : Bool) (f : Nat) :
    frameVal ge v f = 255 := by
  rw [frameVal_eq_min, hb]
  exact Nat.min_eq_left (Nat.le_add_right _ _)

theorem frameVal_eq_or {v : Nat} (hv : v < 65536) (ge : Bool) (f : Nat) :
    frameVal ge v f = baseOf v ∨ frameVal ge v f = baseOf v + 1 := by
  rcases Nat.lt_or_eq_of_le (baseOf_le hv) with hlow | htop
  · rw [frameVal_of_le_254 (Nat.le_of_lt_succ hlow)]
    split
    · exact .inr rfl
    · exact .inl rfl
  · exact .inl ((frameVal_of_eq_255 htop ge f).trans htop.symm)

theorem baseOf_lt_frameVal_iff {v : Nat} (hb : baseOf v ≤ 254) (ge : Bool) (f : Nat) :
    baseOf v < frameVal ge v f ↔ f < upCount ge v := by
  rw [frameVal_of_le_254 hb]
  split <;> omega

/-- Bit 2 of CONFIG is CMP_GE (10_state.md R32). -/
theorem State.readReg_config_bit_two (s : State) : (s.readReg .config).getLsbD 2 = s.cfg.cmpGe := by
  simp [State.readReg, CeConfig.cmpGe]

/-- Settles O31, from the arithmetic of R97 and the threshold that each operator gives a frame. -/
theorem frameValueOfTheTwelveHighBits : Obligations.FrameValueOfTheTwelveHighBits := by
  intro v f s hv
  rw [State.readReg_config_bit_two]
  refine ⟨value12_eq_div v, value12_le hv, baseOf_eq_div v, baseOf_eq_div_256 v, baseOf_le hv,
    remainderOf_eq_mod v, Nat.le_of_lt_succ (remainderOf_lt v), fun low hlow => ?dropped,
    fun hgt => ?greater, fun hge => ?greaterOrEqual,
    fun ge => ⟨frameVal_eq_or hv ge f, fun hb => frameVal_of_eq_255 hb ge f⟩⟩
  case dropped =>
    have hsame := value12_replace_low v hlow
    exact ⟨hsame, baseOf_congr hsame, remainderOf_congr hsame⟩
  case greater => rw [hgt, frameVal_eq_min, upCount_false]
  case greaterOrEqual => simp only [hge, frameVal_eq_min, upCount_true, Nat.lt_succ_iff, ge_iff_le]

/-! ## Counting and adding up the frames -/

theorem countP_range_lt (t n : Nat) : (List.range n).countP (· < t) = min t n := by
  induction n with
  | zero => exact (Nat.min_zero t).symm
  | succ n ih =>
    rw [List.range_succ, List.countP_append, ih, List.countP_singleton]
    simp only [decide_eq_true_iff]
    split <;> omega

theorem sum_map_ite_eq_countP {α : Type} (p : α → Prop) [DecidablePred p] (l : List α) :
    (l.map fun a => if p a then 1 else 0).sum = l.countP p := by
  induction l with
  | nil => rfl
  | cons a l ih => rw [List.map_cons, List.sum_cons, ih, List.countP_cons, Nat.add_comm]; simp

section
variable {v : Nat} (hb : baseOf v ≤ 254) (ge : Bool) (n : Nat)
include hb

theorem countP_baseOf_lt_frameVal :
    (List.range n).countP (fun f => baseOf v < frameVal ge v f) = min (upCount ge v) n := by
  simp only [baseOf_lt_frameVal_iff hb, countP_range_lt]

theorem sum_frameVal_sub_baseOf :
    ((List.range n).map fun f => frameVal ge v f - baseOf v).sum = min (upCount ge v) n := by
  simp only [frameVal_of_le_254 hb, Nat.add_sub_cancel_left, sum_map_ite_eq_countP, countP_range_lt]

theorem sum_frameVal :
    ((List.range n).map (frameVal ge v)).sum = n * baseOf v + min (upCount ge v) n := by
  have hvalue : frameVal ge v = fun f => baseOf v + if f < upCount ge v then 1 else 0 :=
    funext (frameVal_of_le_254 hb ge)
  rw [hvalue, List.sum_map_add, sum_map_ite_eq_countP, countP_range_lt]
  simp

/-- No sample goes up in more than the first sixteen frames, so they add up to its twelve-bit level. -/
theorem sum_sixteen_frameVal :
    ((List.range 16).map (frameVal ge v)).sum = value12 v + ge.toNat := by
  rw [sum_frameVal hb, Nat.min_eq_left (upCount_le ge v), upCount, ← Nat.add_assoc,
    baseOf_mul_add_remainderOf]

end

theorem countP_baseOf_lt_frameVal_of_eq_255 {v : Nat} (hb : baseOf v = 255) (ge : Bool) (n : Nat) :
    (List.range n).countP (fun f => baseOf v < frameVal ge v f) = 0 := by
  simp [frameVal_of_eq_255 hb, hb]

/-- Settles O32: below base 255 the frames above base are those below `upCount`; at 255 all are clipped. -/
theorem ditherAveragesToTheTwelveBitLevel : Obligations.DitherAveragesToTheTwelveBitLevel := by
  intro v n _
  refine ⟨fun hb => ?unclipped, fun hb ge f => ?clipped, fun ge f low hlow =>
    frameVal_congr (value12_replace_low v hlow) ge f⟩
  case unclipped =>
    exact ⟨countP_baseOf_lt_frameVal hb false n, sum_frameVal_sub_baseOf hb false n,
      fun hn => Nat.min_eq_left ((upCount_le false v).trans hn), sum_sixteen_frameVal hb false,
      countP_baseOf_lt_frameVal hb true n, sum_sixteen_frameVal hb true,
      fun f => ⟨baseOf_lt_frameVal_iff hb false f, baseOf_lt_frameVal_iff hb true f⟩⟩
  case clipped =>
    exact ⟨frameVal_of_eq_255 hb ge f, countP_baseOf_lt_frameVal_of_eq_255 hb ge n⟩

end Sys2Proof.Machine
end

section
/-! PROOFS. 44_sequencer.md R104: the interval. One equivalence says which numbers of ticks the interval is
at most; that it is the least that covers the exposure, and when it covers it exactly, follow from it. -/

namespace Sys2Proof.Machine

/-- The quotient of R104 is the rational quotient rounded up: both are the least number of ticks that covers
the exposure in n frames. -/
theorem add_pred_div_eq_ceil (d : Nat) {n : Nat} (hn : 1 ≤ n) :
    (d + n - 1) / n = ⌈(d : ℚ) / n⌉₊ := by
  refine eq_of_forall_ge_iff fun i => ?_
  rw [← Nat.ceilDiv_eq_add_pred_div, ceilDiv_le_iff_le_mul hn, Nat.ceil_le,
    div_le_iff₀' (Nat.cast_pos.2 hn)]
  exact_mod_cast Iff.rfl

theorem seqIntervalOf_le_iff {d n m i : Nat} (hn : 1 ≤ n) :
    seqIntervalOf d n m ≤ i ↔ d ≤ n * i ∧ m ≤ i ∧ 1 ≤ i := by
  rw [seqIntervalOf, ← Nat.ceilDiv_eq_add_pred_div, Nat.max_le, Nat.max_le, ceilDiv_le_iff_le_mul hn,
    and_assoc]

/-- The source accepts that N intervals last longer than D (R111 item 3); this is when they do not. -/
theorem mul_seqIntervalOf_eq_iff {d n m : Nat} (hn : 1 ≤ n) :
    n * seqIntervalOf d n m = d ↔ n ∣ d ∧ max m 1 ≤ d / n := by
  obtain ⟨hcovers, hmin, hone⟩ := (seqIntervalOf_le_iff hn).1 (le_refl (seqIntervalOf d n m))
  constructor
  · intro hexact
    have hquot : d / n = seqIntervalOf d n m := Nat.div_eq_of_eq_mul_right hn hexact.symm
    exact ⟨⟨_, hexact.symm⟩, hquot ▸ Nat.max_le.2 ⟨hmin, hone⟩⟩
  · rintro ⟨⟨k, rfl⟩, hk⟩
    rw [Nat.mul_div_cancel_left k hn] at hk
    have hle := (seqIntervalOf_le_iff hn).2 ⟨le_refl (n * k), Nat.max_le.1 hk⟩
    exact le_antisymm (Nat.mul_le_mul_left n hle) hcovers

/-- Settles O42, from the numbers that the interval is at most. -/
theorem intervalIsTheLeastThatCoversTheExposure :
    Obligations.IntervalIsTheLeastThatCoversTheExposure := by
  intro d n m hn
  obtain ⟨hcovers, hmin, hone⟩ := (seqIntervalOf_le_iff hn).1 (le_refl (seqIntervalOf d n m))
  exact ⟨rfl, add_pred_div_eq_ceil d hn, hone, hmin, hcovers,
    fun i h1 hm hd => (seqIntervalOf_le_iff hn).2 ⟨hd, hm, h1⟩⟩

end Sys2Proof.Machine
end

section
/-! PROOFS. 44_sequencer.md R107, 10_state.md R38: the two bits of SEQ_CTRL. One equation per value of the
bits. -/

namespace Sys2Proof.Machine

theorem State.seqStop_of_stopped {s : State} (hs : s.seq.run = false) : s.seqStop = s := by
  rw [State.seqStop, ← hs]

/-- A START stops a running job itself, so a STOP before it adds nothing. -/
theorem State.seqStop_seqStart (s : State) : s.seqStop.seqStart = s.seqStart := rfl

/-! ## A write to SEQ_CTRL, by the value of its two bits -/

theorem State.writeReg_seqCtrl_of_neither {s : State} {v : Word} (h0 : v.getLsbD 0 = false)
    (h1 : v.getLsbD 1 = false) : s.writeReg .seqCtrl v = s := by
  simp only [State.writeReg, State.writeSeqCtrl, h0, h1, Bool.false_eq_true, reduceIte]

theorem State.writeReg_seqCtrl_of_start {s : State} {v : Word} (h0 : v.getLsbD 0 = true)
    (h1 : v.getLsbD 1 = false) : s.writeReg .seqCtrl v = s.seqStart := by
  simp only [State.writeReg, State.writeSeqCtrl, h0, h1, Bool.false_eq_true, reduceIte]

theorem State.writeReg_seqCtrl_of_stop {s : State} {v : Word} (h0 : v.getLsbD 0 = false)
    (h1 : v.getLsbD 1 = true) : s.writeReg .seqCtrl v = s.seqStop := by
  simp only [State.writeReg, State.writeSeqCtrl, h0, h1, Bool.false_eq_true, reduceIte]

theorem State.writeReg_seqCtrl_of_both {s : State} {v : Word} (h0 : v.getLsbD 0 = true)
    (h1 : v.getLsbD 1 = true) : s.writeReg .seqCtrl v = s.seqStart := by
  simp only [State.writeReg, State.writeSeqCtrl, h0, h1, reduceIte, State.seqStop_seqStart]

/-- The value 1 has START's bit alone. -/
theorem State.writeReg_seqCtrl_one (s : State) : s.writeReg .seqCtrl 1 = s.seqStart :=
  State.writeReg_seqCtrl_of_start (by decide) (by decide)

/-- Settles O45, by the value of the two bits. -/
theorem sequencerStopKeepsTheLatchedValues : Obligations.SequencerStopKeepsTheLatchedValues := by
  intro s v
  refine ⟨fun h0 h1 => ?stop, State.writeReg_seqCtrl_of_neither, fun h0 h1 => ?both, rfl⟩
  case stop =>
    rw [State.writeReg_seqCtrl_of_stop h0 h1]
    exact ⟨rfl, rfl, State.seqStop_of_stopped⟩
  case both => rw [State.writeReg_seqCtrl_of_both h0 h1, State.writeReg_seqCtrl_one]

end Sys2Proof.Machine
end

section
/-! PROOFS. 44_sequencer.md R108: the tick. One equation per branch of `seq_tick()`, with the count of shown
frames as a number: it does not wrap before the passes are complete. -/

namespace Sys2Proof.Machine

/-- With SEQ_PASSES ≥ 1 the count of shown frames stays below 2^32 (R108). -/
theorem State.passFrames_lt (s : State) : s.seq.n.toNat * s.seqCfg.passes.toNat < 2 ^ 32 :=
  calc s.seq.n.toNat * s.seqCfg.passes.toNat
      ≤ 255 * 65535 := Nat.mul_le_mul (Nat.le_of_lt_succ s.seq.n.isLt)
        (Nat.le_of_lt_succ s.seqCfg.passes.isLt)
    _ < 2 ^ 32 := by decide

/-- The frame that an interval's end completes is the last one of the last pass. -/
def State.AtLastFrame (s : State) : Prop :=
  s.seqCfg.passes.toNat ≠ 0 ∧ s.seq.shown.toNat + 1 = s.seq.n.toNat * s.seqCfg.passes.toNat

/-- The register's test for the last frame is the test on numbers: a count that wraps to 0 is no product of
N ≥ 1 and P ≥ 1. -/
theorem State.atLastFrame_iff {s : State} (hn : 0 < s.seq.n.toNat) :
    s.AtLastFrame ↔ s.seqCfg.passes.toNat ≠ 0 ∧
      (s.seq.shown + 1#32).toNat = s.seq.n.toNat * s.seqCfg.passes.toNat := by
  refine and_congr_right fun hp => ?_
  have hpos := Nat.mul_pos hn (Nat.pos_of_ne_zero hp)
  have hlt := s.passFrames_lt
  have hshown := s.seq.shown.isLt
  rw [BitVec.toNat_add, BitVec.toNat_ofNat]
  omega

/-! ## The branches of a tick -/

theorem State.seqTick_of_stopped {s : State} (hr : s.seq.run = false) : s.seqTick = s := if_pos hr

section
variable {s : State} (hr : s.seq.run = true)
include hr

theorem State.seqTick_of_inside (he : s.seq.elapsed.toNat + 1 < s.seq.interval.toNat) :
    s.seqTick = { s with seq := { s.seq with elapsed := s.seq.elapsed + 1#32 } } := by
  rw [State.seqTick, if_neg (by simp [hr]), if_pos he]

variable (he : s.seq.interval.toNat ≤ s.seq.elapsed.toNat + 1)
include he

theorem State.seqTick_of_boundary : s.seqTick = s.seqBoundary := by
  rw [State.seqTick, if_neg (by simp [hr]), if_neg (Nat.not_lt.2 he)]

variable (hn : 0 < s.seq.n.toNat)
include hn

theorem State.seqTick_of_last (hlast : s.AtLastFrame) :
    s.seqTick = s.seqFinish (s.seq.shown + 1#32) := by
  rw [State.seqTick_of_boundary hr he, State.seqBoundary, if_pos ((State.atLastFrame_iff hn).1 hlast)]

theorem State.seqTick_of_next (hnext : ¬ s.AtLastFrame) :
    s.seqTick = s.seqNextFrame (s.seq.shown + 1#32) := by
  rw [State.seqTick_of_boundary hr he, State.seqBoundary, if_neg (mt (State.atLastFrame_iff hn).2 hnext)]

end

/-- The next frame's state as R108 writes it, with the address a sum of words. -/
theorem State.seqNextFrame_eq (s : State) (shown : Word) :
    s.seqNextFrame shown =
      { s with
        seq := { s.seq with
          elapsed := 0, shown := shown, index := BitVec.ofNat 8 s.nextIndex
          presAddr := s.seqCfg.base +
            BitVec.ofNat 32 (s.nextIndex * s.seq.w.toNat * s.seq.h.toNat) }
        irqStatus := s.irqStatus ||| 16#8 } := by
  rw [State.seqNextFrame, BitVec.ofNat_add, BitVec.ofNat_toNat, BitVec.setWidth_eq]
  rfl

/-- Settles O46, one branch of the tick after the other. -/
theorem tickAdvancesThePlayback : Obligations.TickAdvancesThePlayback := by
  intro s hs
  refine ⟨State.seqTick_of_stopped, State.seqTick_of_inside, fun hr he => ?boundary⟩
  have hn := (hs.playing hr).frames
  refine ⟨fun hp hshown => ?last, fun hnext => ⟨s.nextIndex, rfl, ?next⟩⟩
  case last => exact State.seqTick_of_last hr he hn ⟨hp, hshown⟩
  case next =>
    have hnot : ¬ s.AtLastFrame := fun ⟨hp, hshown⟩ => hnext.elim hp (absurd hshown)
    rw [State.seqTick_of_next hr he hn hnot, State.seqNextFrame_eq]

end Sys2Proof.Machine
end

section
/-! PROOFS. 44_sequencer.md R111: the timeline of a playback with P ≥ 1 passes. The sequencer's registers m
ticks after an accepted START are written down once; every tick before the last takes them from m to m + 1,
and the last one stops the sequencer. -/

namespace Sys2Proof.Machine

/-! ## Counting ticks by intervals -/

theorem succ_div_mod_of_inside {m i : Nat} (h : m % i + 1 < i) :
    (m + 1) / i = m / i ∧ (m + 1) % i = m % i + 1 := by
  rw [Nat.div_mod_unique (by omega)]
  have hm := Nat.mod_add_div m i
  omega

theorem succ_div_mod_of_boundary {m i : Nat} (hi : 0 < i) (h : i ≤ m % i + 1) :
    (m + 1) / i = m / i + 1 ∧ (m + 1) % i = 0 := by
  rw [Nat.div_mod_unique hi, Nat.mul_add]
  have hm := Nat.mod_add_div m i
  have hlt := Nat.mod_lt m hi
  omega

/-- The tick or frame before a multiple of i is the last one of its i. -/
theorem div_mod_of_succ_eq_mul {m i k : Nat} (hi : 0 < i) (h : m + 1 = k * i) :
    m / i + 1 = k ∧ m % i + 1 = i := by
  have hzero : (m + 1) % i = 0 := by rw [h, Nat.mul_mod_left]
  have hend : ¬ m % i + 1 < i := fun hin => by
    obtain ⟨-, hmod⟩ := succ_div_mod_of_inside hin
    omega
  obtain ⟨hdiv, -⟩ := succ_div_mod_of_boundary hi (Nat.not_lt.1 hend)
  rw [h, Nat.mul_div_cancel k hi] at hdiv
  exact ⟨hdiv.symm, le_antisymm (Nat.mod_lt m hi) (Nat.not_lt.1 hend)⟩

/-! ## The registers on the timeline -/

/-- The sequencer's registers m ticks after it presented frame 0 with the registers q, its frame set at
`base` (R111): m / I frames have been shown, and the next one modulo N is presented. -/
def Seq.afterStart (q : Seq) (base : Word) (m : Nat) : Seq :=
  { q with
    index := BitVec.ofNat 8 (m / q.interval.toNat % q.n.toNat)
    elapsed := BitVec.ofNat 32 (m % q.interval.toNat)
    shown := BitVec.ofNat 32 (m / q.interval.toNat)
    presAddr := BitVec.ofNat 32
      (base.toNat + m / q.interval.toNat % q.n.toNat * q.w.toNat * q.h.toNat) }

/-- t is on the timeline of the playback from u, m ticks after it. -/
structure State.OnTimeline (u : State) (m : Nat) (t : State) : Prop where
  config : t.seqCfg = u.seqCfg
  seq : t.seq = u.seq.afterStart u.seqCfg.base m

/-- The ticks of all the passes. -/
def State.playbackTicks (u : State) : Nat :=
  u.seq.n.toNat * u.seqCfg.passes.toNat * u.seq.interval.toNat

/-- A playback that ends: the sequencer runs from frame 0 of a frame set in LMEM, for P ≥ 1 passes. -/
structure State.BeginsPasses (u : State) : Prop where
  run : u.seq.run = true
  playing : u.Playing
  lmemSize : u.params.lmemSize ≤ 2 ^ 32
  passes : u.seqCfg.passes.toNat ≠ 0
  start : u.OnTimeline 0 u

/-! ## An accepted START -/

section
variable {s : State} (hok : s.seqRefusal = 0)
include hok

theorem State.seqStart_of_accepted : s.seqStart = s.seqStop.seqLatch := if_pos hok

theorem State.seqStart_interval :
    s.seqStart.seq.interval.toNat =
      seqIntervalOf s.seqCfg.duration.toNat s.cfg.frames.toNat s.seqCfg.minInterval.toNat := by
  obtain ⟨hn, -⟩ := State.seqRefusal_eq_zero.1 hok
  rw [State.seqStart_of_accepted hok]
  exact s.seqStop.seqLatch_interval_toNat hn

theorem State.seqStart_playing : s.seqStart.Playing := by
  have hI := State.seqStart_interval hok
  obtain ⟨hn, hw, hh, hfits⟩ := State.seqRefusal_eq_zero.1 hok
  have hpos := seqIntervalOf_pos s.seqCfg.duration.toNat s.cfg.frames.toNat s.seqCfg.minInterval.toNat
  rw [State.seqStart_of_accepted hok] at hI ⊢
  have hn0 := Nat.pos_of_ne_zero hn
  exact
    { frames := hn0
      width := Nat.pos_of_ne_zero hw
      height := Nat.pos_of_ne_zero hh
      inLmem := hfits
      index := hn0
      elapsed := hI ▸ hpos
      presAddr := by simp
      passes := fun hp => Nat.mul_pos hn0 (Nat.pos_of_ne_zero hp) }

theorem State.seqStart_beginsPasses (hwf : s.params.wf) (hp : s.seqCfg.passes.toNat ≠ 0) :
    s.seqStart.BeginsPasses where
  run := by rw [State.seqStart_of_accepted hok]; rfl
  playing := State.seqStart_playing hok
  lmemSize := by rw [State.seqStart_of_accepted hok]; exact hwf.2
  passes := by rw [State.seqStart_of_accepted hok]; exact hp
  start := by
    rw [State.seqStart_of_accepted hok]
    exact ⟨rfl, by simp [Seq.afterStart]⟩

end

/-! ## The registers of the timeline as numbers -/

section
variable {u : State} (hu : u.BeginsPasses)
include hu

theorem State.BeginsPasses.interval_pos : 0 < u.seq.interval.toNat :=
  Nat.zero_lt_of_lt hu.playing.elapsed

theorem State.BeginsPasses.passFrames_pos : 0 < u.seq.n.toNat * u.seqCfg.passes.toNat :=
  Nat.mul_pos hu.playing.frames (Nat.pos_of_ne_zero hu.passes)

theorem State.BeginsPasses.playbackTicks_pos : 0 < u.playbackTicks :=
  Nat.mul_pos hu.passFrames_pos hu.interval_pos

theorem State.BeginsPasses.index_toNat (m : Nat) :
    (u.seq.afterStart u.seqCfg.base m).index.toNat = m / u.seq.interval.toNat % u.seq.n.toNat := by
  have hlt := Nat.mod_lt (m / u.seq.interval.toNat) hu.playing.frames
  exact Nat.mod_eq_of_lt (hlt.trans u.seq.n.isLt)

theorem State.BeginsPasses.elapsed_toNat (m : Nat) :
    (u.seq.afterStart u.seqCfg.base m).elapsed.toNat = m % u.seq.interval.toNat :=
  Nat.mod_eq_of_lt ((Nat.mod_lt m hu.interval_pos).trans u.seq.interval.isLt)

/-- The presented frame ends inside the frame set, so its address does not wrap. -/
theorem State.BeginsPasses.presAddr_toNat (m : Nat) :
    (u.seq.afterStart u.seqCfg.base m).presAddr.toNat = u.seqCfg.base.toNat +
      m / u.seq.interval.toNat % u.seq.n.toNat * u.seq.w.toNat * u.seq.h.toNat := by
  obtain ⟨hn, hw, hh, hfits, -⟩ := hu.playing
  have hbefore : m / u.seq.interval.toNat % u.seq.n.toNat * u.seq.w.toNat * u.seq.h.toNat <
      u.seq.n.toNat * u.seq.w.toNat * u.seq.h.toNat := by
    gcongr
    exact Nat.mod_lt _ hn
  have hsize := hu.lmemSize
  exact Nat.mod_eq_of_lt (by omega)

variable {m : Nat} (hm : m < u.playbackTicks)
include hm

theorem State.BeginsPasses.shown_lt :
    m / u.seq.interval.toNat < u.seq.n.toNat * u.seqCfg.passes.toNat :=
  (Nat.div_lt_iff_lt_mul hu.interval_pos).2 hm

theorem State.BeginsPasses.shown_toNat :
    (u.seq.afterStart u.seqCfg.base m).shown.toNat = m / u.seq.interval.toNat :=
  Nat.mod_eq_of_lt ((hu.shown_lt hm).trans u.passFrames_lt)

end

/-! ## One tick on the timeline -/

section
variable {u t : State} {m : Nat} (hu : u.BeginsPasses) (ht : u.OnTimeline m t)
include hu ht

theorem State.OnTimeline.run : t.seq.run = true := ht.seq ▸ hu.run

theorem State.OnTimeline.frames_pos : 0 < t.seq.n.toNat := ht.seq ▸ hu.playing.frames

/-- A tick stays inside its interval when its number does. -/
theorem State.OnTimeline.inside_iff :
    t.seq.elapsed.toNat + 1 < t.seq.interval.toNat ↔
      m % u.seq.interval.toNat + 1 < u.seq.interval.toNat := by
  rw [ht.seq, hu.elapsed_toNat]
  exact Iff.rfl

theorem State.OnTimeline.nextIndex :
    t.nextIndex = (m / u.seq.interval.toNat + 1) % u.seq.n.toNat := by
  rw [State.nextIndex, ht.seq, hu.index_toNat]
  exact Nat.mod_add_mod _ _ _

variable (hm : m < u.playbackTicks)
include hm

/-- The test for the last frame, by the number of intervals that have ended. -/
theorem State.OnTimeline.atLastFrame_iff :
    t.AtLastFrame ↔ m / u.seq.interval.toNat + 1 = u.seq.n.toNat * u.seqCfg.passes.toNat := by
  rw [State.AtLastFrame, ht.config, ht.seq, hu.shown_toNat hm]
  exact and_iff_right hu.passes

/-- Before the last tick of all, a tick is a step along the timeline. -/
theorem State.OnTimeline.seqTick (hnext : m + 1 < u.playbackTicks) :
    u.OnTimeline (m + 1) t.seqTick := by
  by_cases hin : m % u.seq.interval.toNat + 1 < u.seq.interval.toNat
  case pos =>
    obtain ⟨hdiv, hmod⟩ := succ_div_mod_of_inside hin
    rw [State.seqTick_of_inside (ht.run hu) ((ht.inside_iff hu).2 hin)]
    exact ⟨ht.config, by simp [ht.seq, Seq.afterStart, hdiv, hmod, BitVec.ofNat_add]⟩
  case neg =>
    obtain ⟨hdiv, hmod⟩ := succ_div_mod_of_boundary hu.interval_pos (Nat.not_lt.1 hin)
    have hmore : ¬ t.AtLastFrame := by
      rw [ht.atLastFrame_iff hu hm, ← hdiv]
      exact (hu.shown_lt hnext).ne
    have hend := Nat.not_lt.1 (mt (ht.inside_iff hu).1 hin)
    rw [State.seqTick_of_next (ht.run hu) hend (ht.frames_pos hu) hmore]
    refine ⟨ht.config, ?_⟩
    rw [State.seqNextFrame_seq, ht.nextIndex hu, ht.config, ht.seq]
    simp [Seq.afterStart, hdiv, hmod, BitVec.ofNat_add]

/-- The last tick of all completes the last frame of the last pass. -/
theorem State.OnTimeline.seqTick_of_complete (hdone : m + 1 = u.playbackTicks) :
    t.AtLastFrame ∧ t.seqTick = t.seqFinish (t.seq.shown + 1#32) := by
  obtain ⟨hshown, hend⟩ := div_mod_of_succ_eq_mul hu.interval_pos hdone
  have hlast := (ht.atLastFrame_iff hu hm).2 hshown
  have hout := mt (ht.inside_iff hu).1 (Nat.not_lt.2 hend.ge)
  exact ⟨hlast, State.seqTick_of_last (ht.run hu) (Nat.not_lt.1 hout) (ht.frames_pos hu) hlast⟩

end

/-! ## The whole playback -/

theorem State.afterTicks_succ (u : State) (m : Nat) : u.afterTicks (m + 1) = (u.afterTicks m).seqTick :=
  Function.iterate_succ_apply' State.seqTick m u

/-- A finished playback stays finished: ticks while stopped are lost (R108). -/
theorem State.afterTicks_of_stopped {u : State} {k m : Nat} (hkm : k ≤ m)
    (hs : (u.afterTicks k).seq.run = false) : u.afterTicks m = u.afterTicks k := by
  obtain ⟨j, rfl⟩ := Nat.exists_eq_add_of_le' hkm
  rw [State.afterTicks, Function.iterate_add_apply]
  exact Function.iterate_fixed (State.seqTick_of_stopped hs) j

theorem State.irqPending_setIrq_self (s : State) (q : Irq) : (s.setIrq q).irqPending q = true := by
  cases q <;> simp [State.irqPending, Irq.mask, Irq.bit]

section
variable {u : State} (hu : u.BeginsPasses)
include hu

theorem State.BeginsPasses.onTimeline {m : Nat} (hm : m < u.playbackTicks) :
    u.OnTimeline m (u.afterTicks m) := by
  induction m with
  | zero => exact hu.start
  | succ m ih =>
    have hlt := Nat.lt_of_succ_lt hm
    rw [State.afterTicks_succ]
    exact (ih hlt).seqTick hu hlt hm

/-- The state in which the playback has ended: that of its last frame, finished. -/
theorem State.BeginsPasses.afterTicks_of_complete {m : Nat} (hm : u.playbackTicks ≤ m) :
    ∃ t, u.OnTimeline (u.playbackTicks - 1) t ∧ t.AtLastFrame ∧
      u.afterTicks m = t.seqFinish (t.seq.shown + 1#32) := by
  have hlt := Nat.sub_one_lt_of_lt hu.playbackTicks_pos
  have hsucc : u.playbackTicks - 1 + 1 = u.playbackTicks := Nat.sub_add_cancel hu.playbackTicks_pos
  have ht := hu.onTimeline hlt
  obtain ⟨hlast, hfinish⟩ := ht.seqTick_of_complete hu hlt hsucc
  rw [← State.afterTicks_succ, hsucc] at hfinish
  refine ⟨_, ht, hlast, ?_⟩
  rw [State.afterTicks_of_stopped hm (by rw [hfinish]; rfl), hfinish]

/-- The last frame of the last pass is frame N - 1. -/
theorem State.BeginsPasses.last_index :
    (u.seq.afterStart u.seqCfg.base (u.playbackTicks - 1)).index.toNat = u.seq.n.toNat - 1 := by
  have hsucc : u.playbackTicks - 1 + 1 = u.playbackTicks := Nat.sub_add_cancel hu.playbackTicks_pos
  obtain ⟨hshown, -⟩ := div_mod_of_succ_eq_mul hu.interval_pos hsucc
  obtain ⟨-, hindex⟩ := div_mod_of_succ_eq_mul hu.playing.frames (hshown.trans (Nat.mul_comm _ _))
  rw [hu.index_toNat]
  exact Nat.eq_sub_of_add_eq hindex

end

/-- Settles O48: the playback follows the timeline up to its last tick and is finished from then on; what its
total time is, R104's interval says. -/
theorem playbackFollowsTheTimeline : Obligations.PlaybackFollowsTheTimeline := by
  rintro s _ hwf hok hp rfl
  have hu := State.seqStart_beginsPasses hok hwf hp
  have hn : s.seqStart.seq.n = s.cfg.frames := by rw [State.seqStart_of_accepted hok]; rfl
  have hcfg : s.seqStart.seqCfg = s.seqCfg := by rw [State.seqStart_of_accepted hok]; rfl
  have hfrom : 1 ≤ s.cfg.frames.toNat := hn ▸ hu.playing.frames
  rw [← hcfg]
  refine ⟨fun m hm => ?playing, fun m hm => ?finished, ?covers, ?exact⟩
  case playing =>
    have ht := hu.onTimeline hm
    rw [ht.seq]
    exact ⟨hu.run, hu.index_toNat m, hu.elapsed_toNat m, hu.shown_toNat hm, hu.presAddr_toNat m⟩
  case finished =>
    obtain ⟨t, ht, hlast, hfinish⟩ := hu.afterTicks_of_complete hm
    obtain ⟨-, hshown⟩ := (State.atLastFrame_iff (ht.frames_pos hu)).1 hlast
    rw [ht.config, ht.seq] at hshown
    rw [hfinish, State.seqFinish_seq, ht.seq]
    exact ⟨rfl, t.irqPending_setIrq_self .seqDone, hu.last_index, hshown⟩
  case covers =>
    rw [hn, hcfg, State.seqStart_interval hok]
    exact ((seqIntervalOf_le_iff hfrom).1 le_rfl).1
  case exact =>
    rw [hn, hcfg, State.seqStart_interval hok]
    exact mul_seqIntervalOf_eq_iff hfrom

end Sys2Proof.Machine
end

section
/-! PROOFS. 60_exceptions.md R122, R123, 10_state.md R36, R37: the interrupt bits. A byte of them is known by
its eight sources; which pending bits a step keeps is followed through everything that the agents can do. -/

namespace Sys2Proof.Machine

/-! ## The eight sources -/

/-- The sources in the order of their bits. -/
def Irq.all : List Irq := [.ceDone, .ceErr, .ceAbort, .startIgn, .seqFrame, .seqDone, .seqErr, .lockViol]

theorem Irq.mem_all (q : Irq) : q ∈ Irq.all := by cases q <;> decide

theorem Irq.all_map_bit : Irq.all.map Irq.bit = List.range 8 := rfl

theorem Irq.bit_lt (q : Irq) : q.bit < 8 :=
  List.mem_range.1 (Irq.all_map_bit ▸ List.mem_map_of_mem q.mem_all)

theorem Irq.exists_bit_eq {i : Nat} (hi : i < 8) : ∃ q : Irq, q.bit = i := by
  have hmem : i ∈ Irq.all.map Irq.bit := Irq.all_map_bit ▸ List.mem_range.2 hi
  obtain ⟨q, -, hq⟩ := List.mem_map.1 hmem
  exact ⟨q, hq⟩

theorem Irq.eq_of_getLsbD_bit {b c : Byte} (h : ∀ r : Irq, b.getLsbD r.bit = c.getLsbD r.bit) : b = c := by
  refine BitVec.eq_of_getLsbD_eq fun i hi => ?_
  obtain ⟨r, rfl⟩ := Irq.exists_bit_eq hi
  exact h r

theorem Irq.getLsbD_mask (q p : Irq) : q.mask.getLsbD p.bit = decide (p = q) := by
  cases q <;> cases p <;> rfl

/-! ## Setting, clearing, and the line -/

theorem State.irqPending_of_irqStatus_or {s t : State} {m : Byte} (h : t.irqStatus = s.irqStatus ||| m)
    (q : Irq) : t.irqPending q = (s.irqPending q || m.getLsbD q.bit) := by
  rw [State.irqPending, h, BitVec.getLsbD_or]
  rfl

theorem State.irqPending_setIrq_of_ne (s : State) {q p : Irq} (hne : p ≠ q) :
    (s.setIrq q).irqPending p = s.irqPending p := by
  rw [State.irqPending_of_irqStatus_or (s.setIrq_irqStatus q), Irq.getLsbD_mask, decide_eq_false hne,
    Bool.or_false]

/-- Setting a source that is pending already changes nothing (60_exceptions.md R122). -/
theorem State.setIrq_of_pending {s : State} {q : Irq} (h : s.irqPending q = true) : s.setIrq q = s := by
  have hbits : s.irqStatus ||| q.mask = s.irqStatus := by
    refine Irq.eq_of_getLsbD_bit fun r => ?_
    rw [BitVec.getLsbD_or, Irq.getLsbD_mask]
    by_cases hr : r = q
    · subst hr
      rw [show s.irqStatus.getLsbD r.bit = true from h, Bool.true_or]
    · rw [decide_eq_false hr, Bool.or_false]
  rw [State.setIrq, hbits]

theorem State.irqPending_writeReg_irqStatus (s : State) (v : Word) (q : Irq) :
    (s.writeReg .irqStatus v).irqPending q = (s.irqPending q && !v.getLsbD q.bit) := by
  simp [State.writeReg, State.irqPending, q.bit_lt]

theorem State.irqLine_iff (s : State) :
    s.irqLine = true ↔ ∃ r : Irq, s.irqPending r = true ∧ s.irqEnable.getLsbD r.bit = true := by
  rw [State.irqLine, ← Irq.all_map_bit, List.any_map, List.any_eq_true]
  simp [Irq.mem_all, State.irqPending]

/-! ## Which pending bits an operation keeps -/

/-- If the source q is pending in s, it is pending in t. -/
def State.KeepsPending (q : Irq) (s t : State) : Prop := s.irqPending q = true → t.irqPending q = true

section
variable {q : Irq} {s t u : State}

theorem State.KeepsPending.trans (h : s.KeepsPending q t) (h' : t.KeepsPending q u) : s.KeepsPending q u :=
  fun hq => h' (h hq)

theorem State.keepsPending_of_eq (h : t.irqStatus = s.irqStatus) : s.KeepsPending q t := fun hq => by
  rw [State.irqPending, h]
  exact hq

/-- An operation that sets bits clears none. -/
theorem State.keepsPending_of_or {m : Byte} (h : t.irqStatus = s.irqStatus ||| m) : s.KeepsPending q t :=
  fun hq => by rw [State.irqPending_of_irqStatus_or h, hq, Bool.true_or]

/-! ### The command engine -/

theorem exec_keepsPending {i : Instr} (h : exec i s = .next t) : s.KeepsPending q t := by
  obtain ⟨r, rfl⟩ | ⟨-, rfl⟩ | ⟨-, rfl⟩ | ⟨src, spans, f, -, rfl⟩ | ⟨-, D, -, -, spans, p, rfl⟩ |
    ⟨-, B, M, -, -, -, -, spans, p, p', rfl⟩ := exec_cases h
  · exact State.keepsPending_of_or (s.takeFault_irqStatus r)
  · exact State.keepsPending_of_or s.haltTake_irqStatus
  all_goals exact State.keepsPending_of_eq (by simp)

theorem runCommand_keepsPending (h : runCommand s = .next t) : s.KeepsPending q t := by
  obtain ⟨r, -, rfl⟩ | ⟨e, -, -, rfl⟩ | ⟨i, -, -, hexec⟩ := runCommand_next h
  · exact State.keepsPending_of_or (s.takeFault_irqStatus r)
  · exact State.keepsPending_of_or (State.takeFault_irqStatus _ _)
  · exact (State.keepsPending_of_eq (State.touch_irqStatus _ _)).trans (exec_keepsPending hexec)

theorem ceStep_keepsPending (h : ceStep s = .next t) : s.KeepsPending q t := by
  obtain ⟨-, rfl⟩ | ⟨-, -, ⟨-, rfl⟩ | ⟨-, hrun⟩⟩ := ceStep_next h
  · exact id
  · exact State.keepsPending_of_or s.abortTake_irqStatus
  · exact runCommand_keepsPending hrun

end

/-! ### The sequencer and the registers -/

section
variable (q : Irq) (s : State)

theorem State.seqTick_keepsPending : s.KeepsPending q s.seqTick := by
  obtain ⟨-, h⟩ | ⟨-, -, h⟩ | ⟨-, -, -, -, h⟩ | ⟨-, -, -, h⟩ := s.seqTick_cases <;> rw [h]
  · exact id
  · exact State.keepsPending_of_eq rfl
  · exact State.keepsPending_of_or (s.seqFinish_irqStatus _)
  · exact State.keepsPending_of_or (s.seqNextFrame_irqStatus _)

theorem State.seqStart_keepsPending : s.KeepsPending q s.seqStart := by
  obtain ⟨-, h⟩ | ⟨-, h⟩ := s.seqStart_cases <;> rw [h]
  · exact State.keepsPending_of_eq rfl
  · exact State.keepsPending_of_or (m := Irq.seqErr.mask) rfl

theorem State.writeSeqCtrl_keepsPending (v : Word) : s.KeepsPending q (s.writeSeqCtrl v) := by
  obtain h | h | h | h := s.writeSeqCtrl_cases v <;> rw [h]
  · exact id
  · exact State.keepsPending_of_eq rfl
  · exact s.seqStart_keepsPending q
  · exact s.seqStart_keepsPending q

theorem State.requestAbort_keepsPending : s.KeepsPending q s.requestAbort := by
  obtain ⟨-, h⟩ | ⟨-, h⟩ := s.requestAbort_cases <;> rw [h]
  · exact State.keepsPending_of_eq rfl
  · exact id

theorem State.startRun_keepsPending : s.KeepsPending q s.startRun := by
  obtain ⟨-, h⟩ | ⟨-, h⟩ := s.startRun_cases <;> rw [h]
  · exact State.keepsPending_of_or (s.setIrq_irqStatus _)
  · exact State.keepsPending_of_eq s.beginRun_irqStatus

theorem State.writeCtrl_keepsPending (v : Word) : s.KeepsPending q (s.writeCtrl v) := by
  obtain h | h | h | h := s.writeCtrl_cases v <;> rw [h]
  · exact id
  · exact s.requestAbort_keepsPending q
  · exact s.startRun_keepsPending q
  · exact (s.requestAbort_keepsPending q).trans (s.requestAbort.startRun_keepsPending q)

theorem State.setCfg_keepsPending (c : CeConfig) : s.KeepsPending q (s.setCfg c) := by
  obtain ⟨-, h⟩ | ⟨-, h⟩ := s.setCfg_cases c <;> rw [h]
  · exact State.keepsPending_of_or (s.setIrq_irqStatus _)
  · exact State.keepsPending_of_eq rfl

theorem State.setSeqCfg_keepsPending (c : SeqConfig) : s.KeepsPending q (s.setSeqCfg c) := by
  obtain ⟨-, h⟩ | ⟨-, h⟩ := s.setSeqCfg_cases c <;> rw [h]
  · exact State.keepsPending_of_or (s.setIrq_irqStatus _)
  · exact State.keepsPending_of_eq rfl

end

/-! ### The ports and the step -/

section
variable {q : Irq} {s t : State}

/-- A register write clears a pending bit only if it writes 1 to the bit of IRQ_STATUS. -/
theorem State.writeReg_keepsPending {r : Reg} {v : Word}
    (hw : r = .irqStatus → v.getLsbD q.bit = false) : s.KeepsPending q (s.writeReg r v) := by
  cases r with
  | irqStatus =>
    intro hq
    rw [State.irqPending_writeReg_irqStatus, hq, hw rfl]
    rfl
  | irqEnable => exact State.keepsPending_of_eq rfl
  | ctrl => exact s.writeCtrl_keepsPending q v
  | seqCtrl => exact s.writeSeqCtrl_keepsPending q v
  | clBase | config | fill | canvasW | canvasH | frames => exact s.setCfg_keepsPending q _
  | seqBase | seqDuration | seqMinInterval | seqPasses => exact s.setSeqCfg_keepsPending q _
  | id | status | cp | errCode | errInfo | errAddr | errCp | seqInterval | seqIndex | seqElapsed | seqShown
  | seqN | seqGeom | seqErr | seqPresAddr => exact fun hq => hq

theorem hostRegWrite_keepsPending {n : Width} {a : Nat} {v : Word} (h : hostRegWrite n a v s = .next t)
    (hw : n = .b4 → a = s.regAddr .irqStatus → v.getLsbD q.bit = false) : s.KeepsPending q t := by
  obtain ⟨hn, hbase, rfl⟩ := hostRegWrite_next h
  obtain he | ⟨r, hoff, he⟩ := s.writeOffset_cases (a - s.params.regBase) v <;> rw [he]
  · exact id
  · refine State.writeReg_keepsPending fun hr => hw hn ?_
    rw [State.regAddr, ← hr, hoff, Nat.add_sub_cancel' hbase]

theorem agentStep_keepsPending {e : Event} (h : agentStep e s = .next t) (hreset : e ≠ .resetInput)
    (hw : ∀ v, e = .regWrite .b4 (s.regAddr .irqStatus) v → v.getLsbD q.bit = false) :
    s.KeepsPending q t := by
  cases e with
  | regRead n a =>
    obtain ⟨o, rfl⟩ := hostRegRead_next h
    exact State.keepsPending_of_eq rfl
  | regWrite n a v =>
    refine hostRegWrite_keepsPending h fun hn ha => hw v ?_
    rw [hn, ha]
  | memRead n a races =>
    obtain ⟨o, rfl⟩ := hostMemRead_next h
    exact State.keepsPending_of_eq rfl
  | memWrite n a v races =>
    obtain ⟨-, r, l, rfl, -⟩ := hostMemWrite_next h
    exact State.keepsPending_of_eq rfl
  | ceStep => exact ceStep_keepsPending h
  | tick =>
    cases h
    exact s.seqTick_keepsPending q
  | displayRead y x =>
    obtain ⟨o, rfl⟩ | ⟨o, rfl⟩ := displayRead_next h <;> exact State.keepsPending_of_eq rfl
  | resetInput => exact absurd rfl hreset

/-- A pending bit stays in every step but the reset and a host write of 1 to it (10_state.md R36). -/
theorem step_keepsPending (h : step s = .next t) (hreset : s.schedule.head? ≠ some .resetInput)
    (hw : ∀ v, s.schedule.head? = some (.regWrite .b4 (s.regAddr .irqStatus) v) →
      v.getLsbD q.bit = false) : s.KeepsPending q t := by
  obtain ⟨-, hce⟩ | ⟨e, rest, hsched, hagent⟩ := step_next h
  · exact ceStep_keepsPending hce
  · have hhead : s.schedule.head? = some e := by rw [hsched]; rfl
    exact agentStep_keepsPending (s := { s with schedule := rest }) hagent
      (fun he => hreset (he ▸ hhead)) fun v hv => hw v (hv ▸ hhead)

end

/-- Settles O52: the line and the two registers by their equations, and stickiness by what each step keeps. -/
theorem interruptLineOfStickyBits : Obligations.InterruptLineOfStickyBits := fun s _ v q _ =>
  ⟨s.irqLine_iff, s.irqPending_writeReg_irqStatus v q, rfl, rfl, rfl, rfl, s.irqPending_setIrq_self q,
    s.irqPending_setIrq_of_ne, State.setIrq_of_pending,
    fun hstep hq hreset hw => step_keepsPending hstep hreset hw hq⟩

end Sys2Proof.Machine
end

section
/-! PROOFS. 60_exceptions.md R119, R114: the fault record, and the null source. Every command that takes a
source but LUTLD has P1 at the head of its checks, so one lemma about such a list serves them all. -/

namespace Sys2Proof.Machine

/-! ## Taking a fault -/

/-- CE_ERR is bit 1 of IRQ_STATUS (10_state.md R36). -/
theorem Irq.mask_ceErr : Irq.ceErr.mask = 2#8 := rfl

/-- All that R119 changes, field by field. -/
theorem State.takeFault_eq (s : State) (r : Raise) :
    s.takeFault r =
      { s with
        err := ⟨r.why.code, r.why.sub, r.opa, r.opb, r.addr, s.cp⟩
        ceBusy := false, abortPend := false, irqStatus := s.irqStatus ||| 2#8 } := by
  rw [← Irq.mask_ceErr]
  rfl

/-- Settles O10: the record by R119's list of changes, and the registers as they read in it. -/
theorem faultEntryWritesTheRecordAndEndsTheRun : Obligations.FaultEntryWritesTheRecordAndEndsTheRun := by
  intro s r
  rw [State.takeFault_eq]
  exact ⟨rfl, rfl, rfl, rfl, rfl, rfl⟩

/-! ## The null source -/

theorem chkNotNull_of_null {S : Surface} (h : S.w = 0 ∨ S.h = 0) : chkNotNull S = some ⟨.p1, 1, 0, 0⟩ :=
  require_neg fun ⟨hw, hh⟩ => h.elim hw hh

/-- P1 comes before any other check, whatever the checks after it say. -/
theorem runChecked_of_null {S : Surface} (h : S.w = 0 ∨ S.h = 0) (checks : List (Option Raise))
    (effect s : State) :
    runChecked (chkNotNull S :: checks) effect s = .next (s.takeFault ⟨.p1, 1, 0, 0⟩) := by
  rw [chkNotNull_of_null h]
  exact runChecked_fault (firstRaise_some_cons _ _)

section
variable (t : Fmt) (src : Nat) {w h : Nat} (s : State)

theorem execLutld_of_width (hw : w ≠ 256) :
    execLutld t src w h s = .next (s.takeFault ⟨.v1, 1, 0, 0⟩) := by
  rw [execLutld, require_neg hw]
  exact runChecked_fault (firstRaise_some_cons _ _)

theorem execLutld_of_height (hw : w = 256) (hh : h ≠ 256) :
    execLutld t src w h s = .next (s.takeFault ⟨.v2, 1, 0, 0⟩) := by
  rw [execLutld, require_pos hw, require_neg hh]
  exact runChecked_fault rfl

/-- Of a null grid LUTLD reports the dimension: its width when that is wrong, its height when only that is 0. -/
theorem execLutld_of_null (hnull : w = 0 ∨ h = 0) :
    execLutld t src w h s = .next (s.takeFault ⟨.v1, 1, 0, 0⟩) ∨
      execLutld t src w h s = .next (s.takeFault ⟨.v2, 1, 0, 0⟩) := by
  by_cases hw : w = 256
  · have hh : h ≠ 256 := by omega
    exact .inr (execLutld_of_height t src s hw hh)
  · exact .inl (execLutld_of_width t src s hw)

theorem execLut_of_no_table (dst : Nat) (hw : w ≠ 0) (hh : h ≠ 0) (hlut : s.lutValid = false) :
    execLut t src w h dst s = .next (s.takeFault ⟨.p2, 0, 0, 0⟩) := by
  have hvalid : ¬ s.lutValid = true := by simp [hlut]
  rw [execLut, chkNotNull_eq_none.2 ⟨hw, hh⟩, require_neg hvalid]
  exact runChecked_fault rfl

end

/-- Settles O38: each of the six commands is a list of checks headed by P1. -/
theorem nullSourceFaultsFirstThenMissingTable : Obligations.NullSourceFaultsFirstThenMissingTable := by
  intro t src w h dst dstr f s
  refine ⟨fun hnull => ⟨fun i hi => ?null, execLutld_of_null t src s hnull⟩,
    execLut_of_no_table t src s dst⟩
  simp only [List.mem_cons, List.not_mem_nil, or_false] at hi
  obtain rfl | rfl | rfl | rfl | rfl | rfl := hi <;>
    exact runChecked_of_null (S := ⟨src, w, h, t⟩) hnull _ _ s

end Sys2Proof.Machine
end

section
/-! PROOFS. 70_reset_and_hazards.md R131: the reset input. The table of reset values is stated once, register
by register; the statement's list is that table in the order of the map. -/

namespace Sys2Proof.Machine

/-- A pending reset is the next step, whatever the block was doing; the pending steps after it stay. -/
theorem step_of_resetInput {s : State} {rest : List Event} (h : s.schedule = .resetInput :: rest) :
    step s = .next (State.afterReset s.params s.freeCount rest s.record) := by
  simp only [step, blockStep, h, agentStep, resetBlock]

/-- With no source enabled the line is low, whatever is pending (60_exceptions.md R123). -/
theorem State.irqLine_of_irqEnable_zero {s : State} (h : s.irqEnable = 0) : s.irqLine = false := by
  rw [Bool.eq_false_iff, Ne, State.irqLine_iff]
  rintro ⟨q, -, henabled⟩
  simp [h] at henabled

/-- What a register reads after a reset, by the table of R131: 0 but for the constant ID and the parameters
of the two engines that have a default. -/
def Reg.resetValue (r : Reg) : Word :=
  match r with
  | .id => 0x544C4C01
  | .config => 3
  | .fill => 0xFFFF
  | .canvasW => 7680
  | .canvasH => 4320
  | .frames => 16
  | .seqMinInterval => 500000
  | .seqPasses => 1
  | _ => 0

/-- ERR_INFO and SEQ_GEOM are put together from smaller fields, all of them 0; every other register stands in
one field or, for STATUS, in flags. -/
theorem State.afterReset_readReg (p : Params) (d : Nat) (pending : List Event) (seen : List Observation)
    (r : Reg) : (State.afterReset p d pending seen).readReg r = r.resetValue := by
  cases r with
  | errInfo => exact show (0#8 ++ 0#8 ++ 0#8 ++ 0#8 : Word) = 0 by decide
  | seqGeom => exact show (0#16 ++ 0#16 : Word) = 0 by decide
  | _ => rfl

theorem Reg.map_resetValue_all :
    Reg.all.map Reg.resetValue =
      [0x544C4C01, 0, 0, 0, 0, 0, 0, 0, 0, 3, 0xFFFF, 0x1E00, 0x10E0, 0x10, 0, 0, 0, 0, 0, 0x7A120, 1,
        0, 0, 0, 0, 0, 0, 0, 0] := rfl

/-- Settles O57: the step leads to the reset state, whose registers read R131's table and whose line is low
since IRQ_ENABLE is 0. -/
theorem resetInputGivesTheResetValues : Obligations.ResetInputGivesTheResetValues := fun s rest hsched =>
  ⟨_, step_of_resetInput hsched, rfl, rfl, State.irqLine_of_irqEnable_zero rfl,
    (List.map_congr_left fun r _ => State.afterReset_readReg s.params s.freeCount rest s.record r).trans
      Reg.map_resetValue_all⟩

end Sys2Proof.Machine
end

section
/-! PROOFS. 30_encoding.md R66 to R72: decoding and encoding undo each other. The rows of the opcode table are
told apart by their opcode byte, which every mask keeps; the words of an accepted command are rebuilt field by
field. -/

namespace Sys2Proof

/-! ## The opcode byte -/

theorem Opcode.byte_injective {o p : Opcode} (h : o.byte = p.byte) : o = p := by
  have hfound : Opcode.ofByte o.byte = Opcode.ofByte p.byte := by rw [h]
  simpa using hfound

/-- A byte of the word that the mask keeps in full is the row's byte. -/
theorem Opcode.byte_of_match {o : Opcode} {w : Word} {k : Nat} (h : w &&& o.mask = o.pattern)
    (hmask : o.mask.extractLsb' k 8 = BitVec.allOnes 8) :
    w.extractLsb' k 8 = o.pattern.extractLsb' k 8 := by
  rw [← h, BitVec.extractLsb'_and, hmask, BitVec.and_allOnes]

/-- Every mask keeps the whole opcode byte (30_encoding.md R71). -/
theorem Opcode.opc_of_match {o : Opcode} {w : Word} (h : w &&& o.mask = o.pattern) :
    w.extractLsb' 0 8 = o.byte := by
  have hpattern : o.pattern.extractLsb' 0 8 = o.byte := by cases o <;> decide
  rw [Opcode.byte_of_match h (by cases o <;> decide), hpattern]

/-- Settles O5: a word that matches a row has the row's opcode byte. -/
theorem opcodeRowsNeverOverlap : Obligations.OpcodeRowsNeverOverlap := fun _ _ _ ho hp =>
  Opcode.byte_injective ((Opcode.opc_of_match ho).symm.trans (Opcode.opc_of_match hp))

/-! ## Decoding what was encoded -/

/-- The encoder meets the row of its command, whatever the command. -/
theorem encode_matches (i : Instr) : Laws.EncodeMatch.Statement i := by
  cases i with
  | halt => exact Laws.EncodeMatch.halt
  | nop => exact Laws.EncodeMatch.nop
  | lutld => exact Laws.EncodeMatch.lutld _ _ _ _
  | lut => exact Laws.EncodeMatch.lut _ _ _ _ _
  | inv => exact Laws.EncodeMatch.inv _ _ _ _ _
  | compose => exact Laws.EncodeMatch.compose _ _ _ _ _
  | decomp => exact Laws.EncodeMatch.decomp _ _ _ _ _ _
  | dith1 => exact Laws.EncodeMatch.dith1 _ _ _ _ _ _
  | dithn => exact Laws.EncodeMatch.dithn _ _ _ _ _

/-- Every operand that fits its field is read back from the field. -/
theorem Instr.instr_encode {i : Instr} (hi : i.WellFormed) : i.opcode.instr (encode i) = i := by
  cases i with
  | halt | nop => rfl
  | lutld | lut | inv | compose | decomp | dith1 | dithn =>
    simp only [Instr.WellFormed, Instr.wellFormed, decide_eq_true_eq] at hi
    simp only [Instr.opcode, encode, Opcode.instr, packCmd_sf, packCmd_fidx, packCmd_w1, packCmd_w3,
      packCmd_w4, packCmd_srcW, packCmd_srcH, hi, Nat.reduceLT]

/-- Settles O1: the words match the command's row, and the row reads every operand back. -/
theorem decodeAfterEncodeGivesTheCommand : Obligations.DecodeAfterEncodeGivesTheCommand := by
  intro i hi
  obtain ⟨hmatch, hzero⟩ := encode_matches i hi
  rw [decode_of_assigned (Opcode.opc_of_match hmatch), Opcode.decode_of_match hmatch hzero,
    Instr.instr_encode hi]

/-! ## Encoding what was decoded -/

theorem Opcode.decode_eq_ok {o : Opcode} {W : CmdWords} {i : Instr} (h : o.decode W = .ok i) :
    W.w0 &&& o.mask = o.pattern ∧ (∀ k ∈ o.reservedWords, W.word k = 0) ∧ i = o.instr W := by
  unfold Opcode.decode at h
  split at h
  case isFalse => cases h
  case isTrue hmatch =>
    split at h
    case h_1 => cases h
    case h_2 hnone =>
      cases h
      exact ⟨hmatch, fun k hk => by simpa using List.find?_eq_none.1 hnone k hk, rfl⟩

/-- All that the decoder accepts: a row of the table with 0 in every reserved bit (30_encoding.md R72). -/
theorem decode_eq_ok {W : CmdWords} {i : Instr} (h : decode W = .ok i) :
    ∃ o : Opcode, W.w0 &&& o.mask = o.pattern ∧ (∀ k ∈ o.reservedWords, W.word k = 0) ∧ i = o.instr W := by
  unfold decode at h
  split at h
  case h_1 => cases h
  case h_2 o _ => exact ⟨o, Opcode.decode_eq_ok h⟩

/-- The fields of the words are in the ranges of their operands. -/
theorem Opcode.instr_wellFormed (o : Opcode) (W : CmdWords) : (o.instr W).WellFormed := by
  have hw : W.srcW < 65536 := (W.w2.extractLsb' 0 16).isLt
  have hh : W.srcH < 65536 := (W.w2.extractLsb' 16 16).isLt
  have hf : W.fidx < 256 := (W.w0.extractLsb' 16 8).isLt
  have hword : ∀ v : Word, v.toNat < 4294967296 := fun v => v.isLt
  cases o <;> simp [Opcode.instr, Instr.WellFormed, Instr.wellFormed, hw, hh, hf, hword]

theorem packDims_srcW_srcH (W : CmdWords) : packDims W.srcW W.srcH = W.w2 := by
  apply BitVec.eq_of_toNat_eq
  have hw2 := W.w2.isLt
  have hw : W.srcW = W.w2.toNat % 65536 := by
    rw [CmdWords.srcW, BitVec.extractLsb'_toNat, Nat.shiftRight_zero]
  have hh : W.srcH = W.w2.toNat / 65536 := by
    rw [CmdWords.srcH, BitVec.extractLsb'_toNat, Nat.shiftRight_eq_div_pow]
    omega
  rw [packDims_toNat (by omega) (by omega)]
  omega

/-- A word is its four bytes. -/
theorem word_eq_append_bytes (w : Word) :
    w.extractLsb' 24 8 ++ w.extractLsb' 16 8 ++ w.extractLsb' 8 8 ++ w.extractLsb' 0 8 = w := by
  rw [BitVec.extractLsb'_append_extractLsb'_eq_extractLsb' (by rfl),
    BitVec.extractLsb'_append_extractLsb'_eq_extractLsb' (by rfl),
    BitVec.extractLsb'_append_extractLsb'_eq_extractLsb' (by rfl)]
  exact BitVec.extractLsb'_eq_self

/-- The byte of SF, of which every mask keeps the bits above SF. -/
theorem CmdWords.sf_byte {W : CmdWords} {o : Opcode} (h : W.w0 &&& o.mask = o.pattern) :
    BitVec.ofNat 8 W.sf.sf = W.w0.extractLsb' 8 8 := by
  have hbyte : W.w0.extractLsb' 8 8 &&& 0xFE#8 = 0#8 := by
    have hmask : o.mask.extractLsb' 8 8 &&& 0xFE#8 = 0xFE#8 := by cases o <;> decide
    have hpattern : o.pattern.extractLsb' 8 8 = 0#8 := by cases o <;> decide
    rw [← hmask, ← BitVec.and_assoc, ← BitVec.extractLsb'_and, h, hpattern, BitVec.zero_and]
  have hbit : W.w0.getLsbD 8 = (W.w0.extractLsb' 8 8).getLsbD 0 := by simp
  have hbytes : ∀ b : Byte, b &&& 0xFE#8 = 0#8 →
      BitVec.ofNat 8 (if b.getLsbD 0 then Fmt.u16 else Fmt.u8).sf = b := by decide
  rw [CmdWords.sf, hbit]
  exact hbytes _ hbyte

/-- The first word of an accepted command is rebuilt from its fields. -/
theorem packW0_fields {W : CmdWords} {o : Opcode} {f : Nat} (h : W.w0 &&& o.mask = o.pattern)
    (hf : BitVec.ofNat 8 f = W.w0.extractLsb' 16 8) : packW0 o W.sf f = W.w0 := by
  have htop : W.w0.extractLsb' 24 8 = BitVec.ofNat 8 0 := by
    rw [Opcode.byte_of_match h (by cases o <;> decide)]
    cases o <;> decide
  rw [packW0, ← htop, hf, CmdWords.sf_byte h, ← Opcode.opc_of_match h]
  exact word_eq_append_bytes W.w0

/-- FIDX is a field of DITH1 alone: the other rows reserve it. -/
theorem Opcode.fidx_reserved {o : Opcode} {w : Word} (ho : o ≠ .dith1) (h : w &&& o.mask = o.pattern) :
    BitVec.ofNat 8 0 = w.extractLsb' 16 8 := by
  rw [Opcode.byte_of_match h (by revert ho; cases o <;> decide)]
  cases o <;> decide

/-- HALT and NOP reserve SF, so the format of their words is U8. -/
theorem CmdWords.sf_reserved {W : CmdWords} {o : Opcode} (ho : o = .halt ∨ o = .nop)
    (h : W.w0 &&& o.mask = o.pattern) : W.sf = .u8 := by
  have hbyte : W.w0.extractLsb' 8 8 = 0#8 := by
    rw [Opcode.byte_of_match h (by rcases ho with rfl | rfl <;> decide)]
    cases o <;> decide
  have hsf := CmdWords.sf_byte h
  rw [hbyte] at hsf
  cases hfmt : W.sf with
  | u8 => rfl
  | u16 => rw [hfmt] at hsf; exact absurd hsf (by decide)

/-- Eight words whose last three are 0 are rebuilt from their fields. -/
theorem packCmd_fields {W : CmdWords} {o : Opcode} {t : Fmt} {f : Nat} (h0 : packW0 o t f = W.w0)
    (h5 : W.word 5 = 0) (h6 : W.word 6 = 0) (h7 : W.word 7 = 0) :
    packCmd o t f W.w1.toNat W.srcW W.srcH W.w3.toNat W.w4.toNat = W := by
  obtain ⟨w0, w1, w2, w3, w4, w5, w6, w7⟩ := W
  subst h0 h5 h6 h7
  simp only [packCmd, packDims_srcW_srcH, BitVec.ofNat_toNat, BitVec.setWidth_eq]

/-- An accepted command is encoded as its own words: what its row has no field for is 0. -/
theorem encode_instr {W : CmdWords} {o : Opcode} (hmatch : W.w0 &&& o.mask = o.pattern)
    (hzero : ∀ k ∈ o.reservedWords, W.word k = 0) : encode (o.instr W) = W := by
  have hwords : ∀ f, BitVec.ofNat 8 f = W.w0.extractLsb' 16 8 →
      packCmd o W.sf f W.w1.toNat W.srcW W.srcH W.w3.toNat W.w4.toNat = W := fun f hf =>
    packCmd_fields (packW0_fields hmatch hf) (hzero 5 (by cases o <;> decide))
      (hzero 6 (by cases o <;> decide)) (hzero 7 (by cases o <;> decide))
  cases o with
  | dith1 =>
    have h := hwords W.fidx (BitVec.ofNat_toNat _ _)
    rwa [show W.w4 = 0 from hzero 4 (by decide)] at h
  | decomp => exact hwords 0 (Opcode.fidx_reserved (by decide) hmatch)
  | lut | inv | compose | dithn =>
    have h := hwords 0 (Opcode.fidx_reserved (by decide) hmatch)
    rwa [show W.w4 = 0 from hzero 4 (by decide)] at h
  | lutld =>
    have h := hwords 0 (Opcode.fidx_reserved (by decide) hmatch)
    rwa [show W.w3 = 0 from hzero 3 (by decide), show W.w4 = 0 from hzero 4 (by decide)] at h
  | halt | nop =>
    have h := hwords 0 (Opcode.fidx_reserved (by decide) hmatch)
    rwa [CmdWords.sf_reserved (by decide) hmatch, CmdWords.srcW, CmdWords.srcH,
      show W.w1 = 0 from hzero 1 (by decide), show W.w2 = 0 from hzero 2 (by decide),
      show W.w3 = 0 from hzero 3 (by decide), show W.w4 = 0 from hzero 4 (by decide)] at h

/-- Settles O2: the accepted words match a row, whose fields are all that is not 0 in them. -/
theorem encodeAfterDecodeGivesTheWords : Obligations.EncodeAfterDecodeGivesTheWords := by
  intro W i h
  obtain ⟨o, hmatch, hzero, rfl⟩ := decode_eq_ok h
  exact ⟨o.instr_wellFormed W, encode_instr hmatch hzero⟩

/-! ## The layout in bytes, and words from the spec -/

/-- Settles O3, word by word. -/
theorem commandBytesGiveBackTheWords : Obligations.CommandBytesGiveBackTheWords := fun W => by
  simp only [CmdWords.ofBytes, Machine.wordAt_byte, CmdWords.word]

/-- Settles O6, by running the decoder on the nine commands. -/
theorem specWordsDecodeToTheirCommands : Obligations.SpecWordsDecodeToTheirCommands := by
  unfold Obligations.SpecWordsDecodeToTheirCommands
  decide

end Sys2Proof
end

section
/-! PROOFS. 40_control.md R81, R82, 20_memory.md R61: what one command changes. `exec_all_or_nothing` says it
once for the registers; the memory is followed through the one or two stores of `exec_cases`. -/

namespace Sys2Proof.Machine

/-! ## A command always answers a next state -/

theorem runChecked_next (checks : List (Option Raise)) (effect s : State) :
    ∃ t, runChecked checks effect s = .next t := by
  obtain ⟨r, -, h⟩ | ⟨-, h⟩ := runChecked_cases checks effect s
  · exact ⟨_, h⟩
  · exact ⟨_, h⟩

theorem exec_next (i : Instr) (s : State) : ∃ t, exec i s = .next t := by
  cases i with
  | halt => exact ⟨_, rfl⟩
  | nop => exact ⟨_, rfl⟩
  | lutld | lut | inv | compose | decomp | dith1 | dithn => exact runChecked_next _ _ _

/-! ## What it changes -/

/-- The outcomes of a command: one fault taken on the unchanged state, the end by HALT, or an advance that
leaves every register as it is but CP, LUT RAM and lut_valid. -/
theorem exec_all_or_nothing {i : Instr} {s t : State} (h : exec i s = .next t) :
    (∃ r, t = s.takeFault r) ∨ (i = .halt ∧ t = s.haltTake) ∨
      (i ≠ .halt ∧
        t = { s with
          cp := s.cp + 32#32, lmem := t.lmem, lutRam := t.lutRam, lutValid := t.lutValid
          race := t.race, freeCount := t.freeCount }) := by
  obtain hfault | hhalt | ⟨rfl, rfl⟩ | ⟨src, spans, f, rfl, rfl⟩ | ⟨hi, D, -, -, spans, p, rfl⟩ |
    ⟨hi, B, M, -, -, -, -, spans, p, q, rfl⟩ := exec_cases h
  · exact .inl hfault
  · exact .inr (.inl hhalt)
  · exact .inr (.inr ⟨nofun, rfl⟩)
  · refine .inr (.inr ⟨nofun, ?_⟩)
    unfold State.loadLut
    split <;> rfl
  · refine .inr (.inr ⟨hi, ?_⟩)
    unfold State.storeSurface State.store
    split <;> rfl
  · refine .inr (.inr ⟨hi, ?_⟩)
    unfold State.storeSurface State.store
    split <;> split <;> rfl

/-- CP stays at a HALT and at a fault, and moves to the next command otherwise (40_control.md R82). -/
theorem exec_cp {i : Instr} {s t : State} (h : exec i s = .next t) :
    ((i = .halt ∨ ∃ r, t = s.takeFault r) ∧ t.cp = s.cp) ∨
      (¬ i = .halt ∧ t.cp = s.cp + 32#32) := by
  obtain ⟨r, rfl⟩ | ⟨rfl, rfl⟩ | ⟨hi, he⟩ := exec_all_or_nothing h
  · exact .inl ⟨.inr ⟨r, rfl⟩, rfl⟩
  · exact .inl ⟨.inl rfl, rfl⟩
  · exact .inr ⟨hi, congrArg State.cp he⟩

theorem add_32_ne_self (w : Word) : w + 32#32 ≠ w := by
  intro h
  bv_omega

/-! ## The memory of the frames being presented -/

theorem Span.Apart.holds_eq_false {I J : Span} (h : I.Apart J) {a : Nat} (hj : J.holds a = true) :
    I.holds a = false := by
  rw [Bool.eq_false_iff]
  exact fun hi => h a ⟨hi, hj⟩

theorem State.NotPresented.holds_eq_false {s : State} {D : Surface} (h : s.NotPresented D)
    (hrun : s.seq.run = true) {a : Nat} (ha : s.activeSet.holds a = true) : D.span.holds a = false :=
  (h hrun).holds_eq_false ha

/-- The table lies outside LMEM. -/
theorem State.readByte_loadLut (s : State) (f : Nat → Half) : (s.loadLut f).readByte = s.readByte :=
  State.readByte_eq (s.loadLut_lmem f) (s.loadLut_lmemEpoch f)

/-- Settles O41: every command that stores has met the check F1 for each surface it stores. -/
theorem noCommandWritesThePresentedFrames : Obligations.NoCommandWritesThePresentedFrames := by
  intro i s t hrun h a ha
  obtain ⟨r, rfl⟩ | ⟨-, rfl⟩ | ⟨-, rfl⟩ | ⟨src, spans, f, -, rfl⟩ | ⟨-, D, -, hD, spans, p, rfl⟩ |
    ⟨-, B, M, -, -, hB, hM, spans, p, q, rfl⟩ := exec_cases h
  · rfl
  · rfl
  · rfl
  · rw [State.readByte_advance, State.readByte_loadLut, State.readByte_touch]
  · rw [State.readByte_advance, State.readByte_storeSurface_outside _ _ _ (hD.holds_eq_false hrun ha),
      State.readByte_touch]
  · rw [State.readByte_advance, State.readByte_storeSurface_outside _ _ _ (hM.holds_eq_false hrun ha),
      State.readByte_storeSurface_outside _ _ _ (hB.holds_eq_false hrun ha), State.readByte_touch]

end Sys2Proof.Machine
end

section
/-! PROOFS. 40_control.md R79 to R87: the engine's step, from its fetch to the end of a run. -/

namespace Sys2Proof.Machine

/-! ## The model's check at the end of a run -/

theorem settled_of_going {t : State} (h : t.ceBusy = true ∨ t.race.awaited = []) :
    settled (.next t) = .next t :=
  settled_eq_next.2 ⟨rfl, fun hi => h.resolve_left (by simp [hi])⟩

theorem settled_of_awaited {t : State} (hi : t.ceBusy = false) (ha : t.race.awaited ≠ []) :
    settled (.next t) = .refused .raceNeverHappened := if_pos ⟨hi, ha⟩

/-! ## The branches of the engine's step -/

theorem ceStep_of_idle {s : State} (hi : s.ceBusy = false) : ceStep s = .next s := if_pos hi

section
variable {s : State} (hb : s.ceBusy = true)
include hb

theorem ceStep_of_abort (ha : s.abortPend = true) : ceStep s = settled (.next s.abortTake) := by
  rw [ceStep, if_neg (by simp [hb]), if_pos ha]

variable (ha : s.abortPend = false)
include ha

theorem ceStep_of_command : ceStep s = settled (runCommand s) := by
  rw [ceStep, if_neg (by simp [hb]), if_neg (by simp [ha])]

theorem ceStep_of_fetch (hf : s.fetchCheck = none) :
    ceStep s = settled (decodeExec s.fetchWords (s.touch [s.cmdSpan])) := by
  rw [ceStep_of_command hb ha, runCommand, hf]

/-- A fault of the fetch ends the run; nothing awaited, the model's own check passes it. -/
theorem ceStep_of_fetch_fault {r : Raise} (hf : s.fetchCheck = some r) :
    ceStep s = settled (.next (s.takeFault r)) ∧
      (s.race.awaited = [] → ceStep s = .next (s.takeFault r)) := by
  have h : ceStep s = settled (.next (s.takeFault r)) := by
    rw [ceStep_of_command hb ha, runCommand, hf]
  exact ⟨h, fun hw => h.trans (settled_of_going (.inr hw))⟩

end

/-! ## The fetch -/

section
variable {s : State}

theorem State.fetchCheck_of_misaligned (h : s.cp.toNat % 4 ≠ 0) :
    s.fetchCheck = some ⟨.a1, 0, 0, s.cp⟩ := by
  rw [State.fetchCheck, require_neg h, firstRaise_some_cons, raised, BitVec.ofNat_toNat, BitVec.setWidth_eq]

theorem State.fetchCheck_of_outside (h4 : s.cp.toNat % 4 = 0) (h : s.params.lmemSize < s.cp.toNat + 32) :
    s.fetchCheck = some ⟨.a2, 0, 0, s.cp⟩ := by
  rw [State.fetchCheck, require_pos h4, require_neg (Nat.not_le.2 h), firstRaise_none_cons,
    firstRaise_some_cons, raised, BitVec.ofNat_toNat, BitVec.setWidth_eq]

theorem State.fetchCheck_of_inside (h4 : s.cp.toNat % 4 = 0) (h : s.cp.toNat + 32 ≤ s.params.lmemSize) :
    s.fetchCheck = none := by
  rw [State.fetchCheck, require_pos h4, require_pos h]
  rfl

theorem CmdWords.word_ofBytes (b : Nat → Byte) {k : Nat} (hk : k < 8) :
    (CmdWords.ofBytes b).word k = wordAt b k := by
  match k, hk with
  | 0, _ | 1, _ | 2, _ | 3, _ | 4, _ | 5, _ | 6, _ | 7, _ => rfl

/-- Word k of the command at CP is the four bytes at CP + 4k. -/
theorem State.fetchWords_word (s : State) {k : Nat} (hk : k < 8) :
    (s.fetchWords.word k).toNat = s.memRead (s.cp.toNat + 4 * k) 4 := by
  have hbytes : leValue (fun j => s.readByte (s.cp.toNat + j)) (4 * k) 4 =
      s.memRead (s.cp.toNat + 4 * k) 4 :=
    leValue_congr_at 4 fun j _ => by rw [Nat.add_assoc]
  rw [State.fetchWords, CmdWords.word_ofBytes _ hk, wordAt, BitVec.toNat_ofNat, hbytes]
  exact Nat.mod_eq_of_lt (leValue_lt _ 4 _)

end

/-- Settles O9, one branch of the fetch after the other. -/
theorem fetchChecksThenReadsEightWords : Obligations.FetchChecksThenReadsEightWords := by
  intro s hb ha
  refine ⟨fun h1 => ?a1, fun h4 h2 => ?a2, fun h4 h => ⟨?inside, fun k hk => s.fetchWords_word hk⟩⟩
  case a1 => exact ceStep_of_fetch_fault hb ha (State.fetchCheck_of_misaligned h1)
  case a2 => exact ceStep_of_fetch_fault hb ha (State.fetchCheck_of_outside h4 h2)
  case inside => exact ⟨_, ceStep_of_fetch hb ha (State.fetchCheck_of_inside h4 h)⟩

/-- Settles O15: CP by the outcomes of a command, and the fetch at the top of a smaller LMEM by A2. -/
theorem commandPointerAdvancesBy32 : Obligations.CommandPointerAdvancesBy32 := by
  refine ⟨fun i s => ?advance, by decide, fun s hb ha hcp hsize => ?top⟩
  case advance =>
    obtain ⟨t, h⟩ := exec_next i s
    refine ⟨t, h, fun hstay => ?stay, fun hgo => ?go⟩
    case stay =>
      obtain rfl | ⟨r, rfl⟩ := hstay
      · obtain ⟨-, hcp⟩ | ⟨hne, -⟩ := exec_cp h
        · exact hcp
        · exact absurd rfl hne
      · rfl
    case go =>
      obtain ⟨hstay, -⟩ | ⟨-, hcp⟩ := exec_cp h
      · exact absurd hstay hgo
      · exact hcp
  case top =>
    have h0 : s.cp.toNat = 4294967264 := by rw [hcp]; rfl
    exact ceStep_of_fetch_fault hb ha (State.fetchCheck_of_outside (by omega) (by omega))

/-! ## What the engine's step answers -/

section
variable {s : State}

theorem runCommand_next_exists (s : State) : ∃ t, runCommand s = .next t := by
  unfold runCommand decodeExec
  split
  · exact ⟨_, rfl⟩
  · split
    · exact ⟨_, rfl⟩
    · exact exec_next _ _

theorem State.touch_awaited_nil (hw : s.race.awaited = []) (spans : List Span) :
    (s.touch spans).race.awaited = [] := by
  rw [State.touch_race_awaited, hw, List.filter_nil]

theorem runCommand_awaited_nil {t : State} (h : runCommand s = .next t) (hw : s.race.awaited = []) :
    t.race.awaited = [] := by
  obtain ⟨r, -, rfl⟩ | ⟨e, -, -, rfl⟩ | ⟨i, -, -, hexec⟩ := runCommand_next h
  · exact hw
  · exact State.touch_awaited_nil hw _
  · exact exec_awaited_nil hexec (State.touch_awaited_nil hw _)

theorem settled_exec (i : Instr) (hw : s.race.awaited = []) : settled (exec i s) = exec i s := by
  obtain ⟨t, ht⟩ := exec_next i s
  rw [ht]
  exact settled_of_going (.inr (exec_awaited_nil ht hw))

/-- The check at the end of a run refuses a next state or lets it pass. -/
theorem settled_next_or_refused (t : State) :
    settled (.next t) = .next t ∨
      t.race.awaited ≠ [] ∧ settled (.next t) = .refused .raceNeverHappened := by
  by_cases h : t.ceBusy = true ∨ t.race.awaited = []
  · exact .inl (settled_of_going h)
  · obtain ⟨hi, hw⟩ := not_or.1 h
    exact .inr ⟨hw, settled_of_awaited (by simpa using hi) hw⟩

/-- A step of the engine is refused only when a byte is awaited (log entry 7). -/
theorem ceStep_next_or_refused (s : State) :
    (∃ t, ceStep s = .next t) ∨ s.race.awaited ≠ [] ∧ ceStep s = .refused .raceNeverHappened := by
  have hsettled : ∀ t : State, (s.race.awaited = [] → t.race.awaited = []) →
      ceStep s = settled (.next t) →
      (∃ t, ceStep s = .next t) ∨ s.race.awaited ≠ [] ∧ ceStep s = .refused .raceNeverHappened := by
    intro t hw h
    obtain hpass | ⟨hne, hrefused⟩ := settled_next_or_refused t
    · exact .inl ⟨t, h.trans hpass⟩
    · exact .inr ⟨mt hw hne, h.trans hrefused⟩
  cases hb : s.ceBusy with
  | false => exact .inl ⟨s, ceStep_of_idle hb⟩
  | true =>
    cases ha : s.abortPend with
    | true => exact hsettled s.abortTake id (ceStep_of_abort hb ha)
    | false =>
      obtain ⟨t, ht⟩ := runCommand_next_exists s
      exact hsettled t (runCommand_awaited_nil ht) (by rw [ceStep_of_command hb ha, ht])

end

/-- Settles O16: the outcomes of a command, and those of the engine's step. -/
theorem commandsAreAllOrNothing : Obligations.CommandsAreAllOrNothing := by
  refine ⟨fun i s => ?command, ceStep_next_or_refused⟩
  obtain ⟨t, h⟩ := exec_next i s
  exact ⟨t, h, exec_all_or_nothing h⟩

/-! ## The agents' steps -/

theorem step_of_nil {s : State} (h : s.schedule = []) : step s = ceStep s := by
  simp only [step, blockStep, h]

theorem step_of_cons {s : State} {e : Event} {rest : List Event} (h : s.schedule = e :: rest) :
    step s = agentStep e { s with schedule := rest } := by
  simp only [step, blockStep, h]

/-- Settles O8: the head of the schedule steps, and the engine when there is none. -/
theorem agentsStepOneAtATime : Obligations.AgentsStepOneAtATime := fun _ _ _ _ _ _ _ _ =>
  ⟨step_of_cons, step_of_cons, step_of_cons, step_of_cons, step_of_cons, step_of_cons, step_of_cons,
    step_of_cons, step_of_nil, fun h hi => (step_of_nil h).trans (ceStep_of_idle hi),
    fun _ => step_of_cons⟩

/-- Settles O7: the fetched words decode to the command, and the check at the end of a run passes what
awaits nothing. -/
theorem stepRunsTheDecodedCommand : Obligations.StepRunsTheDecodedCommand := by
  refine ⟨fun s i rest hb ha hf _ hdec => ?runs, fun t => ⟨settled_of_going, settled_of_awaited⟩⟩
  have hce : ∀ u : State, u.ceBusy = true → u.abortPend = false → u.fetchCheck = none →
      decode u.fetchWords = .ok i → ceStep u = settled (exec i (u.touch [u.cmdSpan])) := by
    intro u hb ha hf hdec
    rw [ceStep_of_fetch hb ha hf, decodeExec_of_ok hdec]
  have hnil : s.schedule = [] → step s = settled (exec i (s.touch [s.cmdSpan])) := fun h =>
    (step_of_nil h).trans (hce s hb ha hf hdec)
  have hcons : s.schedule = .ceStep :: rest →
      step s = settled (exec i ({ s with schedule := rest }.touch [s.cmdSpan])) := fun h =>
    (step_of_cons h).trans (hce { s with schedule := rest } hb ha hf hdec)
  exact ⟨fun hw => ⟨fun h => (hnil h).trans (settled_exec i (State.touch_awaited_nil hw _)),
    fun h => (hcons h).trans (settled_exec i (State.touch_awaited_nil (s := { s with schedule := rest }) hw _))⟩,
    hnil, hcons⟩

/-- Settles O14: the abort is taken before the fetch. -/
theorem abortIsTakenAtTheBoundary : Obligations.AbortIsTakenAtTheBoundary := by
  rintro s t hb ha rfl
  have h := ceStep_of_abort hb ha
  exact ⟨h, fun hw => h.trans (settled_of_going (.inr hw))⟩

/-- Settles O18, by HALT's arm of `exec`. -/
theorem haltEndsTheRun : Obligations.HaltEndsTheRun := fun _ => rfl

/-- Settles O19, by NOP's arm of `exec`. -/
theorem nopOnlyAdvances : Obligations.NopOnlyAdvances := fun _ => rfl

/-- Settles O11, by evaluating the two tables. -/
theorem violationsHaveTheirCodes : Obligations.ViolationsHaveTheirCodes := by
  unfold Obligations.ViolationsHaveTheirCodes
  decide

end Sys2Proof.Machine
end

section
/-! PROOFS. 10_state.md R22, R23: what each agent's step leaves alone, said once per agent: the engine, the
register port, the memory port, the sequencer and the display. The statements about all steps go through
these. -/

namespace Sys2Proof.Machine

/-! ## The register port -/

section
variable (s : State) (v : Word)

/-- A write to CTRL reaches the engine's own registers and IRQ_STATUS only. -/
theorem State.writeCtrl_eq : ∃ busy abort p e b r, s.writeCtrl v =
    { s with ceBusy := busy, abortPend := abort, cp := p, err := e, irqStatus := b, race := r } := by
  simp only [State.writeCtrl, State.requestAbort, State.startRun]
  split_ifs <;> exact ⟨_, _, _, _, _, _, rfl⟩

/-- A write to SEQ_CTRL reaches the sequencer and IRQ_STATUS only. -/
theorem State.writeSeqCtrl_eq : ∃ q b l, s.writeSeqCtrl v =
    { s with seq := q, irqStatus := b, stale := l } := by
  simp only [State.writeSeqCtrl, State.seqStart]
  split_ifs <;> exact ⟨_, _, _, rfl⟩

/-- A tick reaches the sequencer and IRQ_STATUS only. -/
theorem State.seqTick_eq : ∃ q b, s.seqTick = { s with seq := q, irqStatus := b } := by
  obtain ⟨-, h⟩ | ⟨-, -, h⟩ | ⟨-, -, -, -, h⟩ | ⟨-, -, -, h⟩ := s.seqTick_cases <;>
    exact ⟨_, _, h⟩

end

/-- All that a carried out register write can do: change interrupt bits, act through CTRL or SEQ_CTRL, or
change a configuration that is not locked. -/
theorem hostRegWrite_cases {n : Width} {a : Nat} {v : Word} {s t : State}
    (h : hostRegWrite n a v s = .next t) :
    (∃ b c, t = { s with irqStatus := b, irqEnable := c }) ∨
    t = s.writeCtrl v ∨
    (n = .b4 ∧ a = s.regAddr .seqCtrl ∧ t = s.writeSeqCtrl v) ∨
    (s.ceBusy = false ∧ ∃ c, t = { s with cfg := c }) ∨
    (s.seq.run = false ∧ ∃ c, t = { s with seqCfg := c }) := by
  obtain ⟨hn, hbase, rfl⟩ := hostRegWrite_next h
  obtain he | ⟨r, hoff, he⟩ := s.writeOffset_cases (a - s.params.regBase) v <;> rw [he]
  · exact .inl ⟨_, _, rfl⟩
  obtain he | ⟨-, he⟩ | ⟨rfl, he⟩ | ⟨c, he⟩ | ⟨c, he⟩ | ⟨b, he⟩ | ⟨b, he⟩ := s.writeReg_cases r v <;>
    rw [he]
  · exact .inl ⟨_, _, rfl⟩
  · exact .inr (.inl rfl)
  · exact .inr (.inr (.inl ⟨hn, by rw [State.regAddr, hoff, Nat.add_sub_cancel' hbase], rfl⟩))
  · obtain ⟨-, hset⟩ | ⟨hidle, hset⟩ := s.setCfg_cases c <;> rw [hset]
    · exact .inl ⟨_, _, rfl⟩
    · exact .inr (.inr (.inr (.inl ⟨hidle, c, rfl⟩)))
  · obtain ⟨-, hset⟩ | ⟨hstopped, hset⟩ := s.setSeqCfg_cases c <;> rw [hset]
    · exact .inl ⟨_, _, rfl⟩
    · exact .inr (.inr (.inr (.inr ⟨hstopped, c, rfl⟩)))
  · exact .inl ⟨_, _, rfl⟩
  · exact .inl ⟨_, _, rfl⟩

/-! ## Configuration and sequencer -/

/-- From s to t the platform, both configurations and the sequencer are as before. -/
structure State.SameSettings (s t : State) : Prop where
  params : t.params = s.params
  cfg : t.cfg = s.cfg
  seqCfg : t.seqCfg = s.seqCfg
  seq : t.seq = s.seq

theorem exec_sameSettings {i : Instr} {s t : State} (h : exec i s = .next t) : s.SameSettings t := by
  obtain ⟨r, rfl⟩ | ⟨-, rfl⟩ | ⟨-, he⟩ := exec_all_or_nothing h
  · exact ⟨rfl, rfl, rfl, rfl⟩
  · exact ⟨rfl, rfl, rfl, rfl⟩
  · rw [he]
    exact ⟨rfl, rfl, rfl, rfl⟩

theorem ceStep_sameSettings {s t : State} (h : ceStep s = .next t) : s.SameSettings t := by
  obtain ⟨-, rfl⟩ | ⟨-, -, ⟨-, rfl⟩ | ⟨-, hrun⟩⟩ := ceStep_next h
  · exact ⟨rfl, rfl, rfl, rfl⟩
  · exact ⟨rfl, rfl, rfl, rfl⟩
  · obtain ⟨r, -, rfl⟩ | ⟨e, -, -, rfl⟩ | ⟨i, -, -, hexec⟩ := runCommand_next hrun
    · exact ⟨rfl, rfl, rfl, rfl⟩
    · exact ⟨rfl, rfl, rfl, rfl⟩
    · obtain ⟨hp, hc, hsc, hq⟩ := exec_sameSettings hexec
      exact ⟨hp, hc, hsc, hq⟩

/-- Only a register write, a tick and the reset change settings. -/
theorem agentStep_sameSettings {e : Event} {s t : State} (h : agentStep e s = .next t)
    (hwrite : ∀ n a v, e ≠ .regWrite n a v) (htick : e ≠ .tick) (hreset : e ≠ .resetInput) :
    s.SameSettings t := by
  cases e with
  | regRead n a =>
    obtain ⟨o, rfl⟩ := hostRegRead_next h
    exact ⟨rfl, rfl, rfl, rfl⟩
  | regWrite n a v => exact absurd rfl (hwrite n a v)
  | memRead n a races =>
    obtain ⟨o, rfl⟩ := hostMemRead_next h
    exact ⟨rfl, rfl, rfl, rfl⟩
  | memWrite n a v races =>
    obtain ⟨-, r, l, rfl, -⟩ := hostMemWrite_next h
    exact ⟨rfl, rfl, rfl, rfl⟩
  | ceStep => exact ceStep_sameSettings h
  | tick => exact absurd rfl htick
  | displayRead y x => obtain ⟨o, rfl⟩ | ⟨o, rfl⟩ := displayRead_next h <;> exact ⟨rfl, rfl, rfl, rfl⟩
  | resetInput => exact absurd rfl hreset

/-- The parameters are fixed, and each configuration is locked while it is in use. -/
theorem agentStep_locked {e : Event} {s t : State} (h : agentStep e s = .next t) :
    t.params = s.params ∧ (e ≠ .resetInput →
      (s.ceBusy = true → t.cfg = s.cfg) ∧ (s.seq.run = true → t.seqCfg = s.seqCfg)) := by
  cases e with
  | resetInput =>
    cases h
    exact ⟨rfl, fun hne => absurd rfl hne⟩
  | tick =>
    cases h
    obtain ⟨q, b, he⟩ := s.seqTick_eq
    rw [he]
    exact ⟨rfl, fun _ => ⟨fun _ => rfl, fun _ => rfl⟩⟩
  | regWrite n a v =>
    obtain ⟨b, c, rfl⟩ | rfl | ⟨-, -, rfl⟩ | ⟨hidle, c, rfl⟩ | ⟨hstopped, c, rfl⟩ := hostRegWrite_cases h
    · exact ⟨rfl, fun _ => ⟨fun _ => rfl, fun _ => rfl⟩⟩
    · obtain ⟨_, _, _, _, _, _, he⟩ := s.writeCtrl_eq v
      rw [he]
      exact ⟨rfl, fun _ => ⟨fun _ => rfl, fun _ => rfl⟩⟩
    · obtain ⟨_, _, _, he⟩ := s.writeSeqCtrl_eq v
      rw [he]
      exact ⟨rfl, fun _ => ⟨fun _ => rfl, fun _ => rfl⟩⟩
    · exact ⟨rfl, fun _ => ⟨fun hbusy => absurd hbusy (by simp [hidle]), fun _ => rfl⟩⟩
    · exact ⟨rfl, fun _ => ⟨fun _ => rfl, fun hrun => absurd hrun (by simp [hstopped])⟩⟩
  | regRead | memRead | memWrite | ceStep | displayRead =>
    obtain ⟨hp, hc, hsc, -⟩ := agentStep_sameSettings h nofun nofun nofun
    exact ⟨hp, fun _ => ⟨fun _ => hc, fun _ => hsc⟩⟩

/-- Settles O50: the engine changes no setting, and every other step is one of its agent. -/
theorem configurationIsFixedWhileInUse : Obligations.ConfigurationIsFixedWhileInUse := by
  intro s t h
  obtain ⟨-, hce⟩ | ⟨e, rest, hsched, hagent⟩ := step_next h
  · obtain ⟨hp, hc, hsc, -⟩ := ceStep_sameSettings hce
    exact ⟨hp, fun _ => ⟨fun _ => hc, fun _ => hsc⟩⟩
  · obtain ⟨hp, hlocked⟩ := agentStep_locked hagent
    refine ⟨hp, fun hreset => hlocked fun he => hreset ?_⟩
    rw [hsched, he, List.head?_cons]

/-! ## The sequencer's own moves -/

section
variable {s : State} (hp : s.Playing)
include hp

theorem State.Playing.nextIndex_lt : s.nextIndex < s.seq.n.toNat := Nat.mod_lt _ hp.frames

theorem State.Playing.seqNextFrame_index (shown : Word) :
    (s.seqNextFrame shown).seq.index.toNat = s.nextIndex :=
  Nat.mod_eq_of_lt (hp.nextIndex_lt.trans s.seq.n.isLt)

/-- The next frame lies in the frame set, so its address does not wrap. -/
theorem State.Playing.seqNextFrame_presAddr (hsize : s.params.lmemSize ≤ 4294967296) (shown : Word) :
    (s.seqNextFrame shown).seq.presAddr.toNat =
      s.seqCfg.base.toNat + s.nextIndex * s.seq.w.toNat * s.seq.h.toNat := by
  have hbefore : s.nextIndex * s.seq.w.toNat * s.seq.h.toNat <
      s.seq.n.toNat * s.seq.w.toNat * s.seq.h.toNat :=
    Nat.mul_lt_mul_of_pos_right (Nat.mul_lt_mul_of_pos_right hp.nextIndex_lt hp.width) hp.height
  have hfits := hp.inLmem
  exact Nat.mod_eq_of_lt (by omega)

end

/-- Apart from ticks and the reset, only a write to SEQ_CTRL reaches the sequencer. -/
theorem agentStep_seq {e : Event} {s t : State} (h : agentStep e s = .next t) (hne : s.seq ≠ t.seq) :
    e = .tick ∨ e = .resetInput ∨ ∃ v, e = .regWrite .b4 (s.regAddr .seqCtrl) v := by
  cases e with
  | tick => exact .inl rfl
  | resetInput => exact .inr (.inl rfl)
  | regWrite n a v =>
    obtain ⟨b, c, rfl⟩ | rfl | ⟨rfl, rfl, -⟩ | ⟨-, c, rfl⟩ | ⟨-, c, rfl⟩ := hostRegWrite_cases h
    · exact absurd rfl hne
    · obtain ⟨_, _, _, _, _, _, he⟩ := s.writeCtrl_eq v
      rw [he] at hne
      exact absurd rfl hne
    · exact .inr (.inr ⟨v, rfl⟩)
    · exact absurd rfl hne
    · exact absurd rfl hne
  | regRead | memRead | memWrite | ceStep | displayRead =>
    exact absurd (agentStep_sameSettings h nofun nofun nofun).seq.symm hne

/-- Settles O47: the branches of a tick in a legal state, and the agents that reach the sequencer. -/
theorem onlyTicksAdvanceTheSequence : Obligations.OnlyTicksAdvanceTheSequence := by
  refine ⟨?ticks, fun s t h hne => ?steps⟩
  case ticks =>
    rintro s _ hs rfl
    obtain ⟨-, h⟩ | ⟨-, -, h⟩ | ⟨hrun, -, -, -, h⟩ | ⟨hrun, -, -, h⟩ := s.seqTick_cases <;> rw [h]
    · exact .inl ⟨rfl, rfl, rfl, rfl⟩
    · exact .inl ⟨rfl, rfl, rfl, rfl⟩
    · exact .inr ⟨rfl, hrun, .inl ⟨rfl, rfl, rfl⟩⟩
    · have hp := hs.playing hrun
      have hindex := hp.seqNextFrame_index (s.seq.shown + 1#32)
      exact .inr ⟨rfl, hrun, .inr ⟨hrun, hindex, by
        rw [hindex, hp.seqNextFrame_presAddr hs.params.2]⟩⟩
  case steps =>
    obtain ⟨-, hce⟩ | ⟨e, rest, hsched, hagent⟩ := step_next h
    · exact absurd (ceStep_sameSettings hce).seq.symm hne
    · have hhead : s.schedule.head? = some e := by rw [hsched, List.head?_cons]
      rw [hhead]
      obtain rfl | rfl | ⟨v, rfl⟩ := agentStep_seq (s := { s with schedule := rest }) hagent hne
      · exact .inl rfl
      · exact .inr (.inl rfl)
      · exact .inr (.inr ⟨v, rfl⟩)

/-! ## LMEM and the table -/

/-- From s to t LUT RAM and lut_valid are as before. -/
structure State.SameTable (s t : State) : Prop where
  lutRam : t.lutRam = s.lutRam
  lutValid : t.lutValid = s.lutValid

/-- From s to t LMEM is as before: its size, the written bytes and the draw of the others. -/
structure State.SameLmem (s t : State) : Prop where
  params : t.params = s.params
  lmem : t.lmem = s.lmem
  lmemEpoch : t.lmemEpoch = s.lmemEpoch

theorem State.SameLmem.readByte {s t : State} (h : s.SameLmem t) : t.readByte = s.readByte :=
  State.readByte_eq h.lmem h.lmemEpoch

/-- The engine leaves the table alone, or the command at CP was a LUTLD of a 256×256 U16 grid. -/
theorem ceStep_table {s t : State} (h : ceStep s = .next t) :
    s.SameTable t ∨ s.ceBusy = true ∧ t.lutValid = true ∧
      ∃ src, decode s.fetchWords = .ok (.lutld .u16 src 256 256) := by
  obtain ⟨-, rfl⟩ | ⟨hb, -, ⟨-, rfl⟩ | ⟨-, hrun⟩⟩ := ceStep_next h
  · exact .inl ⟨rfl, rfl⟩
  · exact .inl ⟨rfl, rfl⟩
  obtain ⟨r, -, rfl⟩ | ⟨e, -, -, rfl⟩ | ⟨i, -, hdec, hexec⟩ := runCommand_next hrun
  · exact .inl ⟨rfl, rfl⟩
  · exact .inl ⟨rfl, rfl⟩
  obtain ⟨r, rfl⟩ | ⟨-, rfl⟩ | ⟨-, rfl⟩ | ⟨src, spans, f, rfl, rfl⟩ | ⟨-, D, -, -, spans, p, rfl⟩ |
    ⟨-, B, M, -, -, -, -, spans, p, q, rfl⟩ := exec_cases hexec
  · exact .inl ⟨rfl, rfl⟩
  · exact .inl ⟨rfl, rfl⟩
  · exact .inl ⟨rfl, rfl⟩
  · exact .inr ⟨hb, by simp, src, hdec⟩
  · exact .inl ⟨by simp, by simp⟩
  · exact .inl ⟨by simp, by simp⟩

/-- What the agents other than the engine and the reset leave alone: the table, and LMEM unless it is a host
write through the memory port. -/
theorem agentStep_stores {e : Event} {s t : State} (h : agentStep e s = .next t) (hce : e ≠ .ceStep)
    (hreset : e ≠ .resetInput) :
    s.SameTable t ∧ ((∀ n a v races, e ≠ .memWrite n a v races) → s.SameLmem t) := by
  cases e with
  | regRead n a =>
    obtain ⟨o, rfl⟩ := hostRegRead_next h
    exact ⟨⟨rfl, rfl⟩, fun _ => ⟨rfl, rfl, rfl⟩⟩
  | regWrite n a v =>
    obtain ⟨b, c, rfl⟩ | rfl | ⟨-, -, rfl⟩ | ⟨-, c, rfl⟩ | ⟨-, c, rfl⟩ := hostRegWrite_cases h
    · exact ⟨⟨rfl, rfl⟩, fun _ => ⟨rfl, rfl, rfl⟩⟩
    · obtain ⟨_, _, _, _, _, _, he⟩ := s.writeCtrl_eq v
      rw [he]
      exact ⟨⟨rfl, rfl⟩, fun _ => ⟨rfl, rfl, rfl⟩⟩
    · obtain ⟨_, _, _, he⟩ := s.writeSeqCtrl_eq v
      rw [he]
      exact ⟨⟨rfl, rfl⟩, fun _ => ⟨rfl, rfl, rfl⟩⟩
    · exact ⟨⟨rfl, rfl⟩, fun _ => ⟨rfl, rfl, rfl⟩⟩
    · exact ⟨⟨rfl, rfl⟩, fun _ => ⟨rfl, rfl, rfl⟩⟩
  | memRead n a races =>
    obtain ⟨o, rfl⟩ := hostMemRead_next h
    exact ⟨⟨rfl, rfl⟩, fun _ => ⟨rfl, rfl, rfl⟩⟩
  | memWrite n a v races =>
    obtain ⟨-, r, l, rfl, -⟩ := hostMemWrite_next h
    exact ⟨⟨rfl, rfl⟩, fun hne => absurd rfl (hne n a v races)⟩
  | ceStep => exact absurd rfl hce
  | tick =>
    cases h
    obtain ⟨q, b, he⟩ := s.seqTick_eq
    rw [he]
    exact ⟨⟨rfl, rfl⟩, fun _ => ⟨rfl, rfl, rfl⟩⟩
  | displayRead y x =>
    obtain ⟨o, rfl⟩ | ⟨o, rfl⟩ := displayRead_next h <;> exact ⟨⟨rfl, rfl⟩, fun _ => ⟨rfl, rfl, rfl⟩⟩
  | resetInput => exact absurd rfl hreset

/-- Settles O60: the engine's step by its command, every other step by its agent. -/
theorem onlyTheirAgentsWriteTableAndMemory : Obligations.OnlyTheirAgentsWriteTableAndMemory := by
  intro s t h hreset
  have hengine : ∀ u : State, ceStep u = .next t →
      (t.lutRam = u.lutRam ∧ t.lutValid = u.lutValid) ∨
        (u.ceBusy = true ∧ t.lutValid = true ∧
          ∃ src, decode u.fetchWords = .ok (.lutld .u16 src 256 256)) := fun u hu =>
    (ceStep_table hu).imp_left fun hsame => ⟨hsame.lutRam, hsame.lutValid⟩
  have hidle : ∀ u : State, ceStep u = .next t → u.ceBusy = false → t.readByte = u.readByte := by
    intro u hu hi
    rw [ceStep_of_idle hi] at hu
    cases hu
    rfl
  obtain ⟨hnil, hce⟩ | ⟨e, rest, hsched, hagent⟩ := step_next h
  · refine ⟨hengine s hce, fun _ hwho => congrFun (hidle s hce ?_)⟩
    exact hwho.resolve_right fun hne => hne.1 hnil
  · have hhead : s.schedule.head? = some e := by rw [hsched, List.head?_cons]
    rw [hhead] at hreset ⊢
    by_cases he : e = .ceStep
    · subst he
      refine ⟨hengine { s with schedule := rest } hagent, fun _ hwho =>
        congrFun (hidle { s with schedule := rest } hagent ?_)⟩
      exact hwho.resolve_right fun hne => hne.2 rfl
    · obtain ⟨⟨hram, hvalid⟩, hbytes⟩ := agentStep_stores hagent he fun hr => hreset (congrArg some hr)
      exact ⟨.inl ⟨hram, hvalid⟩, fun hmem _ =>
        congrFun (hbytes fun n a v races hw => hmem n a v races (congrArg some hw)).readByte⟩

end Sys2Proof.Machine
end

section
/-! PROOFS. 10_state.md R20, 20_memory.md R46, 40_control.md R77, 44_sequencer.md R105 to R108: the legal
states. The invariant falls into three parts that share no field but the parameters: memory, the run and the
playback. Each agent's step keeps each part, or does not reach its fields. -/

namespace Sys2Proof.Machine

/-! ## The three parts of the invariant -/

/-- Memory is canonical and lies in an LMEM of legal size. -/
structure State.MemoryLegal (s : State) : Prop where
  params : s.params.wf
  canonical : Memory.wf s.lmem
  inLmem : ∀ c ∈ s.lmem, c.1 < s.params.lmemSize

/-- The engine's flags, its fault record and the awaited bytes. -/
structure State.RunLegal (s : State) : Prop where
  abort : s.abortPend = true → s.ceBusy = true
  record : s.ceBusy = true → s.err = ErrRecord.clear
  code : s.err.code.toNat = 0 ∨ 3 ≤ s.err.code.toNat ∧ s.err.code.toNat ≤ 9
  awaited : s.ceBusy = false → s.race.awaited = []

/-- SEQ_ERR, and a sequencer that plays when it runs. -/
structure State.PlaybackLegal (s : State) : Prop where
  seqErr : s.seq.err.toNat ≤ 3
  playing : s.seq.run = true → s.Playing

theorem State.inv_iff (s : State) : s.Inv ↔ s.MemoryLegal ∧ s.RunLegal ∧ s.PlaybackLegal :=
  ⟨fun ⟨hp, hc, hm, ha, hr, hk, hw, he, hq⟩ => ⟨⟨hp, hc, hm⟩, ⟨ha, hr, hk, hw⟩, ⟨he, hq⟩⟩,
    fun ⟨⟨hp, hc, hm⟩, ⟨ha, hr, hk, hw⟩, ⟨he, hq⟩⟩ => ⟨hp, hc, hm, ha, hr, hk, hw, he, hq⟩⟩

/-! ## Memory -/

section
variable {s t : State}

theorem State.MemoryLegal.congr (hs : s.MemoryLegal) (h : s.SameLmem t) : t.MemoryLegal where
  params := h.params ▸ hs.params
  canonical := h.lmem ▸ hs.canonical
  inLmem := by rw [h.params, h.lmem]; exact hs.inLmem

/-- A store inside LMEM keeps memory legal. -/
theorem State.MemoryLegal.splice (hs : s.MemoryLegal) {lo len : Nat} {g : Nat → Byte}
    (hin : lo + len ≤ s.params.lmemSize) (hp : t.params = s.params) (hm : t.lmem = splice s.lmem lo len g) :
    t.MemoryLegal where
  params := hp ▸ hs.params
  canonical := hm ▸ Memory.wf_splice hs.canonical lo len g
  inLmem := fun c hc => by
    rw [hp]
    obtain ⟨-, hlt⟩ | hold := mem_splice (hm ▸ hc)
    · omega
    · exact hs.inLmem c hold

theorem State.MemoryLegal.storeSurface (hs : s.MemoryLegal) {D : Surface} (hD : D.Placed s)
    (p : Nat → Nat → Nat) : (s.storeSurface D p).MemoryLegal := by
  obtain ⟨g, hg⟩ := s.store_lmem_cases D.base D.len (D.byteOf p)
  exact hs.splice hD.2 (by simp) hg

/-- A command stores only surfaces that its checks have placed. -/
theorem exec_memoryLegal {i : Instr} (h : exec i s = .next t) (hs : s.MemoryLegal) : t.MemoryLegal := by
  obtain ⟨r, rfl⟩ | ⟨-, rfl⟩ | ⟨-, rfl⟩ | ⟨src, spans, f, -, rfl⟩ | ⟨-, D, hD, -, spans, p, rfl⟩ |
    ⟨-, B, M, hB, hM, -, -, spans, p, q, rfl⟩ := exec_cases h
  · exact hs.congr ⟨rfl, rfl, rfl⟩
  · exact hs.congr ⟨rfl, rfl, rfl⟩
  · exact hs.congr ⟨rfl, rfl, rfl⟩
  · exact hs.congr ⟨by simp, by simp, by simp⟩
  · have htouch : (s.touch spans).MemoryLegal := hs.congr ⟨rfl, rfl, rfl⟩
    exact (htouch.storeSurface hD p).congr ⟨rfl, rfl, rfl⟩
  · have htouch : (s.touch spans).MemoryLegal := hs.congr ⟨rfl, rfl, rfl⟩
    have hM' : M.Placed ((s.touch spans).storeSurface B p) := by simpa [Surface.Placed] using hM
    exact ((htouch.storeSurface hB p).storeSurface hM' q).congr ⟨rfl, rfl, rfl⟩

theorem ceStep_memoryLegal (h : ceStep s = .next t) (hs : s.MemoryLegal) : t.MemoryLegal := by
  obtain ⟨-, rfl⟩ | ⟨-, -, ⟨-, rfl⟩ | ⟨-, hrun⟩⟩ := ceStep_next h
  · exact hs
  · exact hs.congr ⟨rfl, rfl, rfl⟩
  · obtain ⟨r, -, rfl⟩ | ⟨e, -, -, rfl⟩ | ⟨i, -, -, hexec⟩ := runCommand_next hrun
    · exact hs.congr ⟨rfl, rfl, rfl⟩
    · exact hs.congr ⟨rfl, rfl, rfl⟩
    · exact exec_memoryLegal hexec (hs.congr ⟨rfl, rfl, rfl⟩)

theorem State.afterReset_memoryLegal {p : Params} (hp : p.wf) (d : Nat) (l : List Event)
    (o : List Observation) : (State.afterReset p d l o).MemoryLegal :=
  ⟨hp, State.afterReset_wf p d l o, nofun⟩

theorem agentStep_memoryLegal {e : Event} (h : agentStep e s = .next t) (hs : s.MemoryLegal) :
    t.MemoryLegal := by
  cases e with
  | ceStep => exact ceStep_memoryLegal h hs
  | memWrite n a v races =>
    obtain ⟨hin, r, l, rfl, -⟩ := hostMemWrite_next h
    exact hs.splice hin rfl rfl
  | resetInput =>
    cases h
    exact State.afterReset_memoryLegal hs.params _ _ _
  | regRead | regWrite | memRead | tick | displayRead =>
    obtain ⟨-, hmem⟩ := agentStep_stores h nofun nofun
    exact hs.congr (hmem nofun)

/-! ## The run -/

/-- What leaves the flags and the fault record alone keeps the run legal, if it awaits nothing while idle. -/
theorem State.RunLegal.congr (hs : s.RunLegal) (hb : t.ceBusy = s.ceBusy) (ha : t.abortPend = s.abortPend)
    (he : t.err = s.err) (hw : t.ceBusy = false → t.race.awaited = []) : t.RunLegal where
  abort := by rw [ha, hb]; exact hs.abort
  record := by rw [hb, he]; exact hs.record
  code := he ▸ hs.code
  awaited := hw

/-- An ended run is legal when its fault record is, and it awaits nothing. -/
theorem State.RunLegal.of_ended (hb : t.ceBusy = false) (ha : t.abortPend = false)
    (hk : t.err.code.toNat = 0 ∨ 3 ≤ t.err.code.toNat ∧ t.err.code.toNat ≤ 9)
    (hw : t.ceBusy = false → t.race.awaited = []) : t.RunLegal where
  abort := fun h => absurd h (by simp [ha])
  record := fun h => absurd h (by simp [hb])
  code := hk
  awaited := hw

theorem Violation.code_range (v : Violation) : 3 ≤ v.code.toNat ∧ v.code.toNat ≤ 9 := by
  cases v <;> decide

theorem State.RunLegal.takeFault {u : State} {r : Raise}
    (hw : (u.takeFault r).ceBusy = false → (u.takeFault r).race.awaited = []) :
    (u.takeFault r).RunLegal :=
  State.RunLegal.of_ended rfl rfl (.inr r.why.code_range) hw

theorem exec_runLegal {i : Instr} (h : exec i s = .next t) (hs : s.RunLegal)
    (hw : t.ceBusy = false → t.race.awaited = []) : t.RunLegal := by
  obtain ⟨r, rfl⟩ | ⟨-, rfl⟩ | ⟨-, he⟩ := exec_all_or_nothing h
  · exact State.RunLegal.takeFault hw
  · exact State.RunLegal.of_ended rfl rfl hs.code hw
  · exact hs.congr (by rw [he]) (by rw [he]) (by rw [he]) hw

/-- The engine's step has checked that an ended run awaits nothing. -/
theorem ceStep_runLegal (h : ceStep s = .next t) (hs : s.RunLegal) : t.RunLegal := by
  obtain ⟨-, rfl⟩ | ⟨hb, hw, ⟨-, rfl⟩ | ⟨-, hrun⟩⟩ := ceStep_next h
  · exact hs
  · exact State.RunLegal.of_ended rfl rfl hs.code hw
  · obtain ⟨r, -, rfl⟩ | ⟨e, -, -, rfl⟩ | ⟨i, -, -, hexec⟩ := runCommand_next hrun
    · exact State.RunLegal.takeFault hw
    · exact State.RunLegal.takeFault hw
    · exact exec_runLegal hexec (hs.congr rfl rfl rfl fun hi => absurd hb (by simpa using hi)) hw

theorem State.RunLegal.requestAbort (hs : s.RunLegal) : s.requestAbort.RunLegal := by
  obtain ⟨hb, h⟩ | ⟨-, h⟩ := s.requestAbort_cases <;> rw [h]
  · exact ⟨fun _ => hb, hs.record, hs.code, hs.awaited⟩
  · exact hs

theorem State.RunLegal.startRun (hs : s.RunLegal) : s.startRun.RunLegal := by
  obtain ⟨-, h⟩ | ⟨-, h⟩ := s.startRun_cases <;> rw [h]
  · exact hs.congr rfl rfl rfl hs.awaited
  · exact ⟨fun _ => rfl, fun _ => rfl, .inl rfl, fun _ => rfl⟩

theorem State.RunLegal.writeCtrl (hs : s.RunLegal) (v : Word) : (s.writeCtrl v).RunLegal := by
  obtain h | h | h | h := s.writeCtrl_cases v <;> rw [h]
  · exact hs
  · exact hs.requestAbort
  · exact hs.startRun
  · exact hs.requestAbort.startRun

theorem hostRegWrite_runLegal {n : Width} {a : Nat} {v : Word} (h : hostRegWrite n a v s = .next t)
    (hs : s.RunLegal) : t.RunLegal := by
  obtain ⟨b, c, rfl⟩ | rfl | ⟨-, -, rfl⟩ | ⟨-, c, rfl⟩ | ⟨-, c, rfl⟩ := hostRegWrite_cases h
  · exact hs.congr rfl rfl rfl hs.awaited
  · exact hs.writeCtrl v
  · obtain ⟨_, _, _, he⟩ := s.writeSeqCtrl_eq v
    rw [he]
    exact hs.congr rfl rfl rfl hs.awaited
  · exact hs.congr rfl rfl rfl hs.awaited
  · exact hs.congr rfl rfl rfl hs.awaited

theorem agentStep_runLegal {e : Event} (h : agentStep e s = .next t) (hs : s.RunLegal) : t.RunLegal := by
  cases e with
  | regRead n a =>
    obtain ⟨o, rfl⟩ := hostRegRead_next h
    exact hs.congr rfl rfl rfl hs.awaited
  | regWrite n a v => exact hostRegWrite_runLegal h hs
  | memRead n a races =>
    obtain ⟨o, rfl⟩ := hostMemRead_next h
    exact hs.congr rfl rfl rfl fun hi => (s.await_idle _ races hi).trans (hs.awaited hi)
  | memWrite n a v races =>
    obtain ⟨-, r, l, rfl, -, hr, -⟩ := hostMemWrite_next h
    exact hs.congr rfl rfl rfl fun hi => hr.trans ((s.await_idle _ races hi).trans (hs.awaited hi))
  | ceStep => exact ceStep_runLegal h hs
  | tick =>
    cases h
    obtain ⟨q, b, he⟩ := s.seqTick_eq
    rw [he]
    exact hs.congr rfl rfl rfl hs.awaited
  | displayRead y x =>
    obtain ⟨o, rfl⟩ | ⟨o, rfl⟩ := displayRead_next h <;> exact hs.congr rfl rfl rfl hs.awaited
  | resetInput =>
    cases h
    exact State.RunLegal.of_ended rfl rfl (.inl rfl) fun _ => rfl

/-! ## The playback -/

theorem State.Playing.congr (hs : s.Playing) (hp : t.params = s.params) (hc : t.seqCfg = s.seqCfg)
    (hq : t.seq = s.seq) : t.Playing where
  frames := hq ▸ hs.frames
  width := hq ▸ hs.width
  height := hq ▸ hs.height
  inLmem := by rw [hp, hc, hq]; exact hs.inLmem
  index := hq ▸ hs.index
  elapsed := hq ▸ hs.elapsed
  presAddr := by rw [hc, hq]; exact hs.presAddr
  passes := by rw [hc, hq]; exact hs.passes

theorem State.PlaybackLegal.congr (hs : s.PlaybackLegal) (hp : t.params = s.params)
    (hc : t.seqCfg = s.seqCfg) (hq : t.seq = s.seq) : t.PlaybackLegal :=
  ⟨hq ▸ hs.seqErr, fun hr => (hs.playing (hq ▸ hr)).congr hp hc hq⟩

/-- A stopped sequencer is legal when its SEQ_ERR is. -/
theorem State.PlaybackLegal.of_stopped (he : t.seq.err.toNat ≤ 3) (hr : t.seq.run = false) :
    t.PlaybackLegal :=
  ⟨he, fun h => absurd h (by simp [hr])⟩

theorem State.PlaybackLegal.seqStart : s.seqStart.PlaybackLegal := by
  obtain ⟨hok, h⟩ | ⟨-, h⟩ := s.seqStart_cases
  · exact ⟨by rw [h]; exact Nat.zero_le 3, fun _ => State.seqStart_playing hok⟩
  · rw [h]
    exact State.PlaybackLegal.of_stopped ((Nat.mod_le _ _).trans s.seqRefusal_le) rfl

theorem State.PlaybackLegal.writeSeqCtrl (hs : s.PlaybackLegal) (v : Word) :
    (s.writeSeqCtrl v).PlaybackLegal := by
  obtain h | h | h | h := s.writeSeqCtrl_cases v <;> rw [h]
  · exact hs
  · exact State.PlaybackLegal.of_stopped hs.seqErr rfl
  · exact State.PlaybackLegal.seqStart
  · exact State.PlaybackLegal.seqStart

/-- A tick inside an interval, or to the next frame, leaves a playing sequencer playing (R108). -/
theorem State.PlaybackLegal.seqTick (hs : s.PlaybackLegal) (hsize : s.params.lmemSize ≤ 4294967296) :
    s.seqTick.PlaybackLegal := by
  obtain ⟨-, h⟩ | ⟨hrun, hin, h⟩ | ⟨-, -, -, -, h⟩ | ⟨hrun, -, hmore, h⟩ := s.seqTick_cases <;> rw [h]
  · exact hs
  · have hp := hs.playing hrun
    refine ⟨hs.seqErr, fun _ => { hp with elapsed := ?_ }⟩
    exact (Nat.mod_le _ _).trans_lt hin
  · exact State.PlaybackLegal.of_stopped hs.seqErr rfl
  · have hp := hs.playing hrun
    have hindex := hp.seqNextFrame_index (s.seq.shown + 1#32)
    refine ⟨hs.seqErr, fun _ => ?_⟩
    exact
      { frames := hp.frames
        width := hp.width
        height := hp.height
        inLmem := hp.inLmem
        index := hindex ▸ hp.nextIndex_lt
        elapsed := Nat.zero_lt_of_lt hp.elapsed
        presAddr := by rw [hindex]; exact hp.seqNextFrame_presAddr hsize _
        passes := fun hpass => by
          have hlt := hp.passes hpass
          have hle : (s.seq.shown + 1#32).toNat ≤ s.seq.shown.toNat + 1 := Nat.mod_le _ _
          exact lt_of_le_of_ne (hle.trans hlt) fun heq => hmore ⟨hpass, heq⟩ }

theorem agentStep_playbackLegal {e : Event} (h : agentStep e s = .next t) (hs : s.PlaybackLegal)
    (hsize : s.params.lmemSize ≤ 4294967296) : t.PlaybackLegal := by
  cases e with
  | tick =>
    cases h
    exact hs.seqTick hsize
  | regWrite n a v =>
    obtain ⟨b, c, rfl⟩ | rfl | ⟨-, -, rfl⟩ | ⟨-, c, rfl⟩ | ⟨hstopped, c, rfl⟩ := hostRegWrite_cases h
    · exact hs.congr rfl rfl rfl
    · obtain ⟨_, _, _, _, _, _, he⟩ := s.writeCtrl_eq v
      rw [he]
      exact hs.congr rfl rfl rfl
    · exact hs.writeSeqCtrl v
    · exact hs.congr rfl rfl rfl
    · exact State.PlaybackLegal.of_stopped hs.seqErr hstopped
  | resetInput =>
    cases h
    exact State.PlaybackLegal.of_stopped (Nat.zero_le 3) rfl
  | regRead | memRead | memWrite | ceStep | displayRead =>
    obtain ⟨hp, -, hc, hq⟩ := agentStep_sameSettings h nofun nofun nofun
    exact hs.congr hp hc hq

/-! ## Every step, and the reset state -/

theorem agentStep_inv {e : Event} (h : agentStep e s = .next t) (hs : s.Inv) : t.Inv := by
  obtain ⟨hmem, hrun, hplay⟩ := s.inv_iff.1 hs
  exact t.inv_iff.2 ⟨agentStep_memoryLegal h hmem, agentStep_runLegal h hrun,
    agentStep_playbackLegal h hplay hmem.params.2⟩

/-- The pending steps are no part of the invariant. -/
theorem State.Inv.withSchedule (hs : s.Inv) (l : List Event) : ({ s with schedule := l } : State).Inv := by
  obtain ⟨hmem, hrun, hplay⟩ := s.inv_iff.1 hs
  exact (State.inv_iff _).2 ⟨hmem.congr ⟨rfl, rfl, rfl⟩, hrun.congr rfl rfl rfl hrun.awaited,
    hplay.congr rfl rfl rfl⟩

end

/-- Settles O59: each part of the invariant through the step of each agent. -/
theorem everyStepKeepsTheLegalStates : Obligations.EveryStepKeepsTheLegalStates := by
  intro s t hs h
  obtain ⟨-, hce⟩ | ⟨e, rest, -, hagent⟩ := step_next h
  · exact agentStep_inv (e := .ceStep) hce hs
  · exact agentStep_inv hagent (hs.withSchedule rest)

theorem State.afterReset_inv {p : Params} (hp : p.wf) (d : Nat) (l : List Event) (o : List Observation) :
    (State.afterReset p d l o).Inv :=
  (State.inv_iff _).2 ⟨State.afterReset_memoryLegal hp d l o,
    State.RunLegal.of_ended rfl rfl (.inl rfl) fun _ => rfl,
    State.PlaybackLegal.of_stopped (Nat.zero_le 3) rfl⟩

/-- Settles O58: the reset state's memory is empty, no run is busy and the sequencer is stopped. -/
theorem resetStateIsLegal : Obligations.ResetStateIsLegal :=
  ⟨fun _ d pending seen hp => State.afterReset_inv hp d pending seen,
    State.afterReset_inv (by decide) 0 [] []⟩

end Sys2Proof.Machine
end

section
/-! PROOFS. 40_control.md R85: the three ends of a run. -/

namespace Sys2Proof.Machine

section
variable {s t : State}

/-- HALT never faults; any other command that ends the run does. -/
theorem exec_ends {i : Instr} (h : exec i s = .next t) (hb : s.ceBusy = true) (ht : t.ceBusy = false) :
    (i = .halt ∧ t = s.haltTake) ∨ i ≠ .halt ∧ ∃ r, t = s.takeFault r := by
  by_cases hi : i = .halt
  · subst hi
    cases h
    exact .inl ⟨rfl, rfl⟩
  · obtain hfault | ⟨rfl, -⟩ | ⟨-, he⟩ := exec_all_or_nothing h
    · exact .inr ⟨hi, hfault⟩
    · exact absurd rfl hi
    · rw [he, hb] at ht
      cases ht

/-- All the ways in which the engine's step ends a run; a fault or a HALT has noted, at most, that the command's
bytes were read. -/
theorem ceStep_ends (h : ceStep s = .next t) (hb : s.ceBusy = true) (ht : t.ceBusy = false) :
    (s.abortPend = false ∧ (s.fetchCheck = none ∧ decode s.fetchWords = .ok .halt) ∧
      ∃ n, t = ({ s with race := n } : State).haltTake) ∨
    (s.abortPend = false ∧ ¬ (s.fetchCheck = none ∧ decode s.fetchWords = .ok .halt) ∧
      ∃ n r, t = ({ s with race := n } : State).takeFault r) ∨
    (s.abortPend = true ∧ t = s.abortTake) := by
  obtain ⟨hi, -⟩ | ⟨-, -, ⟨ha, rfl⟩ | ⟨ha, hrun⟩⟩ := ceStep_next h
  · rw [hb] at hi
    cases hi
  · exact .inr (.inr ⟨ha, rfl⟩)
  obtain ⟨r, hf, rfl⟩ | ⟨e, -, hdec, rfl⟩ | ⟨i, hf, hdec, hexec⟩ := runCommand_next hrun
  · exact .inr (.inl ⟨ha, by simp [hf], _, r, rfl⟩)
  · exact .inr (.inl ⟨ha, by simp [hdec], _, _, rfl⟩)
  · obtain ⟨rfl, rfl⟩ | ⟨hi, r, rfl⟩ := exec_ends hexec hb ht
    · exact .inl ⟨ha, ⟨hf, hdec⟩, _, rfl⟩
    · exact .inr (.inl ⟨ha, by simp [hdec, hi], _, r, rfl⟩)

/-- A write to CTRL ends no run by itself: an ABORT is taken at the next command boundary (R83). -/
theorem State.writeCtrl_ceBusy_of_busy (hb : s.ceBusy = true) (v : Word) :
    (s.writeCtrl v).ceBusy = s.ceBusy := by
  obtain h | h | h | h := s.writeCtrl_cases v <;> rw [h]
  · exact s.requestAbort_ceBusy
  · rw [State.startRun_of_busy hb]
  · rw [State.requestAbort_startRun_of_busy hb]

/-- A run that a step ends, and no reset, is ended by the engine. -/
theorem agentStep_ends_run {e : Event} (h : agentStep e s = .next t) (hb : s.ceBusy = true)
    (ht : t.ceBusy = false) (hreset : e ≠ .resetInput) : e = .ceStep := by
  have hkeeps : t.ceBusy = s.ceBusy → e = .ceStep := fun hsame => by
    rw [ht, hb] at hsame
    cases hsame
  cases e with
  | ceStep => rfl
  | resetInput => exact absurd rfl hreset
  | regRead n a =>
    obtain ⟨o, rfl⟩ := hostRegRead_next h
    exact hkeeps rfl
  | regWrite n a v =>
    obtain ⟨b, c, rfl⟩ | rfl | ⟨-, -, rfl⟩ | ⟨-, c, rfl⟩ | ⟨-, c, rfl⟩ := hostRegWrite_cases h
    · exact hkeeps rfl
    · exact hkeeps (State.writeCtrl_ceBusy_of_busy hb v)
    · obtain ⟨_, _, _, he⟩ := s.writeSeqCtrl_eq v
      exact hkeeps (by rw [he])
    · exact hkeeps rfl
    · exact hkeeps rfl
  | memRead n a races =>
    obtain ⟨o, rfl⟩ := hostMemRead_next h
    exact hkeeps rfl
  | memWrite n a v races =>
    obtain ⟨-, r, l, rfl, -⟩ := hostMemWrite_next h
    exact hkeeps rfl
  | tick =>
    cases h
    obtain ⟨q, b, he⟩ := s.seqTick_eq
    exact hkeeps (by rw [he])
  | displayRead y x => obtain ⟨o, rfl⟩ | ⟨o, rfl⟩ := displayRead_next h <;> exact hkeeps rfl

end

/-- The ends of the engine's step on a legal state, with CP and the record as R85 says. -/
theorem ceStep_ends_legal {s t : State} (hs : s.Inv) (h : ceStep s = .next t) (hb : s.ceBusy = true)
    (ht : t.ceBusy = false) :
    t.cp = s.cp ∧ t.abortPend = false ∧
    ((s.abortPend = false ∧ (s.fetchCheck = none ∧ decode s.fetchWords = .ok .halt) ∧
        t.irqStatus = s.irqStatus ||| Irq.mask .ceDone ∧ t.err = ErrRecord.clear) ∨
     (s.abortPend = false ∧ ¬ (s.fetchCheck = none ∧ decode s.fetchWords = .ok .halt) ∧
        t.irqStatus = s.irqStatus ||| Irq.mask .ceErr ∧ t.err.cp = s.cp ∧ t.err.code ≠ 0 ∧
        ∃ r : Raise, t.err = r.toRecord s.cp) ∨
     (s.abortPend = true ∧
        t.irqStatus = s.irqStatus ||| Irq.mask .ceAbort ∧ t.err = ErrRecord.clear)) := by
  have hclear := hs.record hb
  obtain ⟨ha, hhalt, n, rfl⟩ | ⟨ha, hno, n, r, rfl⟩ | ⟨ha, rfl⟩ := ceStep_ends h hb ht
  · exact ⟨rfl, rfl, .inl ⟨ha, hhalt, rfl, hclear⟩⟩
  · have hcode : r.why.code ≠ 0 := fun h0 => by
      have hrange := r.why.code_range
      rw [h0] at hrange
      exact absurd hrange.1 (by decide)
    exact ⟨rfl, rfl, .inr (.inl ⟨ha, hno, rfl, rfl, hcode, r, rfl⟩)⟩
  · exact ⟨rfl, rfl, .inr (.inr ⟨ha, rfl, hclear⟩)⟩

/-- Settles O17: the step is the engine's, whether it was pending or not. -/
theorem aRunEndsInOneOfThreeWays : Obligations.ARunEndsInOneOfThreeWays := by
  intro s t hs h hb ht hreset
  obtain ⟨hnil, hce⟩ | ⟨e, rest, hsched, hagent⟩ := step_next h
  · obtain ⟨hcp, ha, hends⟩ := ceStep_ends_legal hs hce hb ht
    exact ⟨hcp, ha, .inl hnil, hends⟩
  · have hhead : s.schedule.head? = some e := by rw [hsched, List.head?_cons]
    rw [hhead] at hreset ⊢
    obtain rfl := agentStep_ends_run hagent hb ht fun he => hreset (congrArg some he)
    obtain ⟨hcp, ha, hends⟩ := ceStep_ends_legal (hs.withSchedule rest) hagent hb ht
    exact ⟨hcp, ha, .inr rfl, hends⟩

end Sys2Proof.Machine
end

section
/-! PROOFS. 40_control.md R81, 60_exceptions.md R114 to R118: the commands of one source and one destination.
Five commands have one shape, `StoresSurface`: checks of their own, the checks of the two operands, one stored
surface. What such a command reports and what it stores is said once for the shape. -/

namespace Sys2Proof.Machine

/-! ## Checks that fail -/

section
variable {S A B D : Surface} {s : State}

theorem chkSurface_of_odd (id : Byte) (hfmt : S.fmt = .u16) (hodd : S.base % 2 = 1) :
    chkSurface S id s = some ⟨.a3, id, 0, BitVec.ofNat 32 S.base⟩ := by
  have hne : ¬ (S.fmt = .u16 → S.base % 2 = 0) := fun h => by
    have := h hfmt
    omega
  rw [chkSurface, require_neg hne, firstRaise_some_cons, raised]

theorem chkSurface_of_outside (id : Byte) (heven : S.fmt = .u16 → S.base % 2 = 0)
    (hout : s.params.lmemSize < S.base + S.len) :
    chkSurface S id s = some ⟨.a4, id, 0, BitVec.ofNat 32 S.base⟩ := by
  rw [chkSurface, require_pos heven, require_neg (Nat.not_le.2 hout), firstRaise_none_cons,
    firstRaise_some_cons, raised]

theorem chkOverlap_of_shared (a b : Byte) (h : ¬ A.span.Apart B.span) :
    chkOverlap A a B b = some ⟨.o1, a, b, BitVec.ofNat 32 A.base⟩ :=
  require_neg (mt (Span.overlaps_eq_false_iff _ _).1 h)

theorem chkFiu_of_presented (id : Byte) (h : ¬ s.NotPresented D) :
    chkFiu D id s = some ⟨.f1, id, 4, BitVec.ofNat 32 D.base⟩ := by
  unfold chkFiu
  exact require_neg fun hok => h ((chkFiu_eq_none (id := id)).1 (require_pos hok))

/-- Checks that hold do not hide the first failing one. -/
theorem firstRaise_append {l m : List (Option Raise)} (h : ∀ c ∈ l, c = none) :
    firstRaise (l ++ m) = firstRaise m := by
  have hnone : firstRaise l = none := firstRaise_eq_none.2 h
  unfold firstRaise at hnone ⊢
  rw [List.findSome?_append, hnone, Option.none_or]

end

/-! ## The shape -/

/-- The shared checks of a source and a destination, in the order of R118. -/
def operandChecks (S D : Surface) (s : State) : List (Option Raise) :=
  [chkSurface S opSrc s, chkSurface D opDst0 s, chkOverlap S opSrc D opDst0, chkFiu D opDst0 s]

/-- In s the command i makes the checks `own`, then those of its operands S and D, and stores in D the samples
p, having read S. -/
structure StoresSurface (i : Instr) (s : State) (own : List (Option Raise)) (S D : Surface)
    (p : Nat → Nat → Nat) : Prop where
  source : sourcesOf i = [S]
  destination : destinationsOf i s = [D]
  exec : exec i s =
    runChecked (own ++ operandChecks S D s) ((s.touch [S.span, D.span]).storeSurface D p) s

section
variable (t : Fmt) (src w h dst : Nat) (s : State)

theorem storesSurface_lut : StoresSurface (.lut t src w h dst) s
    [chkNotNull ⟨src, w, h, t⟩, require (s.lutValid = true) (raised .p2 opCmd 0 0)]
    ⟨src, w, h, t⟩ ⟨dst, w, h, .u16⟩
    (fun y x => (s.lutRead (BitVec.ofNat 16 ((⟨src, w, h, t⟩ : Surface).pix s y x))).toNat) :=
  ⟨rfl, rfl, rfl⟩

theorem storesSurface_inv : StoresSurface (.inv t src w h dst) s [chkNotNull ⟨src, w, h, t⟩]
    ⟨src, w, h, t⟩ ⟨dst, w, h, t⟩ (fun y x => maxOf t - (⟨src, w, h, t⟩ : Surface).pix s y x) :=
  ⟨rfl, rfl, rfl⟩

/-- COMPOSE's own checks, for a scaled size of sw by sh: the null source, the border value, the scaled size
(42_compositor.md R95). -/
def composeChecks (t : Fmt) (src w h : Nat) (s : State) (sw sh : Nat) : List (Option Raise) :=
  [chkNotNull ⟨src, w, h, t⟩,
   require (fillValue t s.cfg ≤ maxOf t) (raised .v7 opCmd 0 0),
   require (sw ≤ s.cfg.canvasW.toNat) (raised .g1 opSrc 0 0),
   require (sh ≤ s.cfg.canvasH.toNat) (raised .g2 opSrc 0 0)]

/-- The samples of the canvas, for a scaled size of sw by sh. -/
def composeSample (t : Fmt) (src w h : Nat) (s : State) (sw sh : Nat) : Nat → Nat → Nat :=
  canvasSample (fillValue t s.cfg) (placement s.cfg.center s.cfg.canvasH.toNat sh)
    (placement s.cfg.center s.cfg.canvasW.toNat sw) sh sw
    (scaled w h ((⟨src, w, h, t⟩ : Surface).pix s) sw sh)

theorem storesSurface_compose {sw sh : Nat}
    (hdims : (sw, sh) = scaleDims w h s.cfg.canvasW.toNat s.cfg.canvasH.toNat) :
    StoresSurface (.compose t src w h dst) s (composeChecks t src w h s sw sh)
      ⟨src, w, h, t⟩ ⟨dst, s.cfg.canvasW.toNat, s.cfg.canvasH.toNat, t⟩ (composeSample t src w h s sw sh) := by
  obtain ⟨rfl, rfl⟩ := Prod.ext_iff.1 hdims
  exact ⟨rfl, rfl, rfl⟩

theorem storesSurface_dith1 (f : Nat) : StoresSurface (.dith1 t src w h dst f) s
    [chkNotNull ⟨src, w, h, t⟩, require (t = .u16) (raised .v4 opSrc 0 0),
     require (s.cfg.frames.toNat ≠ 0) (raised .v5 opCmd 0 0),
     require (f < s.cfg.frames.toNat) (raised .v6 opCmd 0 0)]
    ⟨src, w, h, t⟩ ⟨dst, w, h, .u8⟩
    (fun y x => frameVal s.cfg.cmpGe ((⟨src, w, h, t⟩ : Surface).pix s y x) f) :=
  ⟨rfl, rfl, rfl⟩

theorem storesSurface_dithn : StoresSurface (.dithn t src w h dst) s
    [chkNotNull ⟨src, w, h, t⟩, require (t = .u16) (raised .v4 opSrc 0 0),
     require (s.cfg.frames.toNat ≠ 0) (raised .v5 opCmd 0 0)]
    ⟨src, w, h, t⟩ ⟨dst, w, s.cfg.frames.toNat * h, .u8⟩
    (fun y x => frameVal s.cfg.cmpGe ((⟨src, w, h, t⟩ : Surface).pix s (y % h) x) (y / h)) :=
  ⟨rfl, rfl, rfl⟩

end

section
variable {i : Instr} {s u : State} {own : List (Option Raise)} {S D : Surface} {p : Nat → Nat → Nat}
  (hi : StoresSurface i s own S D p)
include hi

/-! ## What it reports -/

/-- A failing check of the command's own, or of its operands, is the fault when those before it hold. -/
theorem StoresSurface.fault_of_operands (hown : ∀ c ∈ own, c = none) {r : Raise}
    (hr : firstRaise (operandChecks S D s) = some r) : Machine.exec i s = .next (s.takeFault r) := by
  rw [hi.exec]
  exact runChecked_fault ((firstRaise_append hown).trans hr)

/-- The order of R118, once the command's own checks hold. -/
theorem StoresSurface.reportsOperandFaults (hown : ∀ c ∈ own, c = none) :
    ReportsOperandFaults (Machine.exec i) S D s where
  srcOdd hfmt hodd := hi.fault_of_operands hown (by
    rw [operandChecks, chkSurface_of_odd opSrc hfmt hodd]
    rfl)
  srcRange heven hout := hi.fault_of_operands hown (by
    rw [operandChecks, chkSurface_of_outside opSrc heven hout]
    rfl)
  dstOdd hS hfmt hodd := hi.fault_of_operands hown (by
    rw [operandChecks, chkSurface_eq_none.2 hS, chkSurface_of_odd opDst0 hfmt hodd]
    rfl)
  dstRange hS heven hout := hi.fault_of_operands hown (by
    rw [operandChecks, chkSurface_eq_none.2 hS, chkSurface_of_outside opDst0 heven hout]
    rfl)
  overlap hS hD hap := hi.fault_of_operands hown (by
    rw [operandChecks, chkSurface_eq_none.2 hS, chkSurface_eq_none.2 hD, chkOverlap_of_shared _ _ hap]
    rfl)
  inUse hS hD hap hpres := hi.fault_of_operands hown (by
    rw [operandChecks, chkSurface_eq_none.2 hS, chkSurface_eq_none.2 hD, chkOverlap_eq_none.2 hap,
      chkFiu_of_presented _ hpres]
    rfl)

/-! ## What it stores -/

/-- A command whose checks hold completes. -/
theorem StoresSurface.completes (hown : ∀ c ∈ own, c = none) (hS : S.Placed s) (hD : D.Placed s)
    (hap : S.span.Apart D.span) (hfree : s.NotPresented D) :
    Machine.exec i s = .next ((s.touch [S.span, D.span]).storeSurface D p).advance := by
  rw [hi.exec]
  refine runChecked_pass fun c hc => ?_
  obtain hc | hc := List.mem_append.1 hc
  · exact hown c hc
  · simp only [operandChecks, List.mem_cons, List.not_mem_nil, or_false] at hc
    obtain rfl | rfl | rfl | rfl := hc
    · exact chkSurface_eq_none.2 hS
    · exact chkSurface_eq_none.2 hD
    · exact chkOverlap_eq_none.2 hap
    · exact chkFiu_eq_none.2 hfree

/-- Conversely, a command that does not end the run has met its checks and stored its surface. -/
theorem StoresSurface.of_completes (h : Machine.exec i s = .next u) (hu : u.ceBusy = true) :
    (∀ c ∈ own, c = none) ∧ u = ((s.touch [S.span, D.span]).storeSurface D p).advance := by
  rw [hi.exec] at h
  obtain ⟨hchecks, he⟩ := runChecked_completes h hu
  exact ⟨fun c hc => hchecks c (List.mem_append_left _ hc), he⟩

theorem StoresSurface.touch_untainted (hund : ¬ s.Disturbed i) :
    (s.touch [S.span, D.span]).race.tainted = false :=
  State.touch_tainted_of_not_disturbed (l := [S, D]) hund (by rw [hi.source, hi.destination]; rfl)

/-- The stored samples, unless the host has disturbed the command. -/
theorem StoresSurface.pix_eq (hund : ¬ s.Disturbed i) {y x : Nat} (hy : y < D.h) (hx : x < D.w) :
    D.pix ((s.touch [S.span, D.span]).storeSurface D p).advance y x = p y x % 256 ^ bpe D.fmt :=
  Surface.pix_storeSurface _ D p (hi.touch_untainted hund) hy hx

/-- What the statements about one destination share: completion, the frame, and the samples. -/
theorem StoresSurface.completes_frame_pix (hown : ∀ c ∈ own, c = none) (hS : S.Placed s) (hD : D.Placed s)
    (hap : S.span.Apart D.span) (hfree : s.NotPresented D) :
    ∃ u, Machine.exec i s = .next u ∧ s.OnlyMemoryChanged u ∧ s.SameOutside u D.span ∧
      (¬ s.Disturbed i → ∀ y x, y < D.h → x < D.w → D.pix u y x = p y x % 256 ^ bpe D.fmt) :=
  ⟨_, hi.completes hown hS hD hap hfree, s.storeSurface_onlyMemoryChanged _ _ _,
    fun _ ha => State.readByte_storeSurface_outside _ _ _ ha,
    fun hund _ _ hy hx => hi.pix_eq hund hy hx⟩

end

/-! ## The tone unit -/

/-- A sample of a format is not cut when it is stored in that format. -/
theorem mod_pow_bpe {t : Fmt} {v : Nat} (hv : v ≤ maxOf t) : v % 256 ^ bpe t = v :=
  Nat.mod_eq_of_lt (by rw [pow_bpe]; omega)

/-- A table entry is a U16 sample. -/
theorem half_mod_pow_bpe (v : Half) : v.toNat % 256 ^ bpe .u16 = v.toNat :=
  Nat.mod_eq_of_lt v.isLt

/-- Settles O22: the shape of LUT, whose entries fit their samples. -/
theorem lutLooksUpEverySample : Obligations.LutLooksUpEverySample := by
  intro t src w h dst s hw hh hlut hS hD hap hfree
  obtain ⟨u, hu, honly, hout, hpix⟩ := (storesSurface_lut t src w h dst s).completes_frame_pix
    (by simp [chkNotNull_eq_none, hw, hh, hlut]) hS hD hap hfree
  exact ⟨u, hu, honly, hout, fun hund y x hy hx => (hpix hund y x hy hx).trans (half_mod_pow_bpe _)⟩

/-- Settles O23: the shape of INV, for both formats. -/
theorem invInvertsEverySample : Obligations.InvInvertsEverySample := by
  intro t src w h dst s hw hh hS hD hap hfree
  obtain ⟨u, hu, honly, hout, hpix⟩ := (storesSurface_inv t src w h dst s).completes_frame_pix
    (by simp [chkNotNull_eq_none, hw, hh]) hS hD hap hfree
  refine ⟨u, hu, honly, hout, fun hund y x hy hx => (hpix hund y x hy hx).trans ?_⟩
  rw [mod_pow_bpe (Nat.sub_le _ _)]
  cases t <;> rfl

section
variable {s u v : State}

/-- Of a run that is not disturbed by two commands, the first leaves the second undisturbed: it notes no host
write. The second one's destinations must not depend on what the first one changes. -/
theorem StoresSurface.not_disturbed_next {i j : Instr} {own : List (Option Raise)} {S D : Surface}
    {p : Nat → Nat → Nat} (hi : StoresSurface i s own S D p) (hundi : ¬ s.Disturbed i)
    (hundj : ¬ s.Disturbed j)
    (hdest : destinationsOf j ((s.touch [S.span, D.span]).storeSurface D p).advance = destinationsOf j s) :
    ¬ ((s.touch [S.span, D.span]).storeSurface D p).advance.Disturbed j := by
  rintro (htainted | ⟨I, hI, T, hT, hshared⟩)
  · rw [State.advance_race, State.storeSurface_race, hi.touch_untainted hundi] at htainted
    cases htainted
  · rw [hdest] at hT
    exact hundj (.inr ⟨I, by simpa using hI, T, hT, hshared⟩)

/-- What a completed INV leaves in its destination (41_tone.md R90). -/
theorem pix_of_inv_completes {t : Fmt} {src w h dst : Nat} (hund : ¬ s.Disturbed (.inv t src w h dst))
    (hu : exec (.inv t src w h dst) s = .next u) (hb : u.ceBusy = true) {y x : Nat} (hy : y < h)
    (hx : x < w) :
    (⟨dst, w, h, t⟩ : Surface).pix u y x = maxOf t - (⟨src, w, h, t⟩ : Surface).pix s y x := by
  have hi := storesSurface_inv t src w h dst s
  obtain ⟨-, rfl⟩ := hi.of_completes hu hb
  exact (hi.pix_eq hund hy hx).trans (mod_pow_bpe (Nat.sub_le _ _))

end

/-- Settles O24: inverting twice is the identity on samples, which are at most MAX. -/
theorem invTwiceGivesBackTheSource : Obligations.InvTwiceGivesBackTheSource := by
  intro t src w h mid dst s u v hund1 hund2 hu hbu hv hbv y x hy hx
  have hi := storesSurface_inv t src w h mid s
  have hmid := pix_of_inv_completes hund1 hu hbu hy hx
  have hund : ¬ u.Disturbed (.inv t mid w h dst) := by
    obtain ⟨-, rfl⟩ := hi.of_completes hu hbu
    exact hi.not_disturbed_next hund1 hund2 rfl
  have hle := (⟨src, w, h, t⟩ : Surface).pix_le s y x
  rw [pix_of_inv_completes hund hv hbv hy hx, hmid]
  exact Nat.sub_sub_self hle

/-- Settles O25: TONE's INV reads the entries that its LUT has stored. -/
theorem toneGivesTheInvertedTable : Obligations.ToneGivesTheInvertedTable := by
  intro t src w h tmp dst s u v hund1 hund2 hu hbu hv hbv y x hy hx
  have hi := storesSurface_lut t src w h tmp s
  obtain ⟨-, rfl⟩ := hi.of_completes hu hbu
  have hund := hi.not_disturbed_next hund1 hund2 rfl
  rw [pix_of_inv_completes hund hv hbv hy hx, hi.pix_eq hund1 hy hx, half_mod_pow_bpe]
  rfl

/-! ## LUTLD -/

/-- The grid of a LUTLD that is loaded. -/
def gridAt (src : Nat) : Surface := ⟨src, 256, 256, .u16⟩

section
variable {src : Nat} {s : State}

theorem exec_lutld_of_placed (h : (gridAt src).Placed s) :
    exec (.lutld .u16 src 256 256) s =
      .next ((s.touch [(gridAt src).span]).loadLut fun i =>
        BitVec.ofNat 16 ((gridAt src).pix s (i / 256) (i % 256))).advance := by
  refine runChecked_pass fun c hc => ?_
  simp only [List.mem_cons, List.not_mem_nil, or_false] at hc
  obtain rfl | rfl | rfl | rfl := hc
  · rfl
  · rfl
  · rfl
  · exact chkSurface_eq_none.2 h

theorem State.loadLut_eq (s : State) (f : Nat → Half) :
    s.loadLut f =
      { s with lutRam := (s.loadLut f).lutRam, lutValid := true, freeCount := (s.loadLut f).freeCount } := by
  unfold State.loadLut
  split <;> rfl

end

/-- Settles O20: entry r*256 + c reads the grid's sample back. -/
theorem lutldLoadsTheGrid : Obligations.LutldLoadsTheGrid := by
  intro src s hplaced
  refine ⟨_, exec_lutld_of_placed hplaced, ?frame, fun hund r c hr hc => ?entry⟩
  case frame =>
    rw [State.loadLut_eq]
    rfl
  case entry =>
    have hclean : (s.touch [(gridAt src).span]).race.tainted = false :=
      State.touch_tainted_of_not_disturbed (l := [gridAt src]) hund rfl
    have hindex : (BitVec.ofNat 16 (r * 256 + c)).toNat = r * 256 + c := Nat.mod_eq_of_lt (by omega)
    have hrow : (r * 256 + c) / 256 = r := by omega
    have hcol : (r * 256 + c) % 256 = c := by omega
    have hle := (gridAt src).pix_le s r c
    have hread := State.lutRead_loadLut (s.touch [(gridAt src).span])
      (fun i => BitVec.ofNat 16 ((gridAt src).pix s (i / 256) (i % 256))) (BitVec.ofNat 16 (r * 256 + c)) hclean
    rw [hindex, hrow, hcol] at hread
    exact (congrArg BitVec.toNat hread).trans (Nat.mod_eq_of_lt (Nat.lt_succ_of_le hle))

end Sys2Proof.Machine
end

section
/-! PROOFS. 42_compositor.md R95, R96, 43_bitplane_dither.md R99 to R101, 60_exceptions.md R118: what the
compositor and the dither commands store, and what every command of the tone unit, the compositor and the
dither reports. -/

namespace Sys2Proof.Machine

/-! ## The faults of a command's own checks -/

theorem firstRaise_append_of_some {l m : List (Option Raise)} {r : Raise} (h : firstRaise l = some r) :
    firstRaise (l ++ m) = some r := by
  unfold firstRaise at h ⊢
  rw [List.findSome?_append, h, Option.some_or]

theorem StoresSurface.fault_of_own {i : Instr} {s : State} {own : List (Option Raise)} {S D : Surface}
    {p : Nat → Nat → Nat} (hi : StoresSurface i s own S D p) {r : Raise} (hr : firstRaise own = some r) :
    Machine.exec i s = .next (s.takeFault r) := by
  rw [hi.exec]
  exact runChecked_fault (firstRaise_append_of_some hr)

/-! ## The compositor -/

/-- V7 holds but for a U8 canvas whose FILL is in use and does not fit (42_compositor.md R95). -/
theorem fillValue_le_iff (t : Fmt) (c : CeConfig) :
    fillValue t c ≤ maxOf t ↔ ¬ (t = .u8 ∧ c.config.getLsbD 1 = false ∧ 255 < c.fill.toNat) := by
  have hfill := c.fill.isLt
  rw [show c.config.getLsbD 1 = c.fillMax from rfl, fillValue]
  cases c.fillMax with
  | true => simp
  | false =>
    cases t with
    | u8 => simp [maxOf]
    | u16 =>
      simp only [Bool.false_eq_true, reduceIte, maxOf, reduceCtorEq, false_and, not_false_eq_true, iff_true]
      omega

/-- On a canvas of columns but no rows the source shrinks to one sample, which is one row too many. -/
theorem scaleDims_of_no_rows {h cw : Nat} (w : Nat) (hh : h ≠ 0) (hcw : cw ≠ 0) :
    scaleDims w h cw 0 = (1, 1) := by
  have hfit : ¬ (w ≤ cw ∧ h ≤ 0) := by omega
  have hwide : ¬ cw * h ≤ 0 * w := by
    rw [Nat.zero_mul, Nat.le_zero]
    exact Nat.mul_ne_zero hcw hh
  rw [scaleDims, if_neg hfit, if_neg hwide, Nat.mul_zero, Nat.zero_div]
  rfl

section
variable (t : Fmt) (src : Nat) {w h : Nat} (dst : Nat) {s : State} (hw : w ≠ 0) (hh : h ≠ 0)
include hw hh

theorem chkNotNull_of_pos : chkNotNull ⟨src, w, h, t⟩ = none := chkNotNull_eq_none.2 ⟨hw, hh⟩

theorem composeChecks_pass {sw sh : Nat} (hfill : fillValue t s.cfg ≤ maxOf t)
    (hsw : sw ≤ s.cfg.canvasW.toNat) (hsh : sh ≤ s.cfg.canvasH.toNat) :
    ∀ c ∈ composeChecks t src w h s sw sh, c = none := by
  simp [composeChecks, chkNotNull_of_pos t src hw hh, hfill, hsw, hsh]

/-- The first failing check is V7. -/
theorem exec_compose_of_fill (hfill : ¬ fillValue t s.cfg ≤ maxOf t) :
    exec (.compose t src w h dst) s = .next (s.takeFault ⟨.v7, 0, 0, 0⟩) :=
  (storesSurface_compose t src w h dst s rfl).fault_of_own (by
    rw [composeChecks, chkNotNull_of_pos t src hw hh, require_neg hfill]
    rfl)

/-- A scaled source has at least one column, so it does not fit a canvas without one. -/
theorem exec_compose_of_no_columns (hfill : fillValue t s.cfg ≤ maxOf t) (hcw : s.cfg.canvasW.toNat = 0) :
    exec (.compose t src w h dst) s = .next (s.takeFault ⟨.g1, 1, 0, 0⟩) := by
  obtain ⟨hpos, -⟩ := scaleDims_pos (cw := s.cfg.canvasW.toNat) (ch := s.cfg.canvasH.toNat)
    (Nat.pos_of_ne_zero hw) (Nat.pos_of_ne_zero hh)
  refine (storesSurface_compose t src w h dst s rfl).fault_of_own ?_
  rw [composeChecks, chkNotNull_of_pos t src hw hh, require_pos hfill, hcw, require_neg (Nat.not_le.2 (hcw ▸ hpos))]
  rfl

theorem exec_compose_of_no_rows (hfill : fillValue t s.cfg ≤ maxOf t) (hcw : s.cfg.canvasW.toNat ≠ 0)
    (hch : s.cfg.canvasH.toNat = 0) :
    exec (.compose t src w h dst) s = .next (s.takeFault ⟨.g2, 1, 0, 0⟩) := by
  have hdims : (1, 1) = scaleDims w h s.cfg.canvasW.toNat s.cfg.canvasH.toNat := by
    rw [hch, scaleDims_of_no_rows w hh hcw]
  refine (storesSurface_compose t src w h dst s hdims).fault_of_own ?_
  rw [composeChecks, chkNotNull_of_pos t src hw hh, require_pos hfill,
    require_pos (Nat.one_le_iff_ne_zero.2 hcw), hch, require_neg (by decide)]
  rfl

/-- On a canvas of both dimensions the scaled size fits. -/
theorem exists_scaleDims_le {cw ch : Nat} (hcw : cw ≠ 0) (hch : ch ≠ 0) :
    ∃ sw sh, (sw, sh) = scaleDims w h cw ch ∧ sw ≤ cw ∧ sh ≤ ch := by
  obtain ⟨hsw, hsh⟩ := scaleDims_le_canvas (Nat.pos_of_ne_zero hw) (Nat.pos_of_ne_zero hh)
    (Nat.one_le_iff_ne_zero.2 hcw) (Nat.one_le_iff_ne_zero.2 hch)
  exact ⟨_, _, rfl, hsw, hsh⟩

end

/-! ### Neither G1 nor G2 on a canvas of both dimensions -/

@[simp] theorem raised_why (v : Violation) (opa opb : Byte) (addr : Nat) : (raised v opa opb addr).why = v := rfl

theorem require_eq_some {ok : Prop} [Decidable ok] {r r' : Raise} (h : require ok r = some r') : r' = r := by
  unfold require at h
  split at h <;> cases h
  rfl

/-- The checks of operands raise alignment and range (7), overlap (8) and frame in use (9) only. -/
theorem operandChecks_code {S D : Surface} {s : State} {r : Raise} (h : some r ∈ operandChecks S D s) :
    7 ≤ r.why.code.toNat := by
  have hsurface : ∀ (T : Surface) (id : Byte), chkSurface T id s = some r → 7 ≤ r.why.code.toNat := by
    intro T id hT
    obtain ⟨c, hc, hr⟩ := List.exists_of_findSome?_eq_some hT
    simp only [List.mem_cons, List.not_mem_nil, or_false] at hc
    obtain rfl | rfl := hc <;> rw [require_eq_some hr, raised_why] <;> decide
  simp only [operandChecks, List.mem_cons, List.not_mem_nil, or_false] at h
  obtain h | h | h | h := h
  · exact hsurface _ _ h.symm
  · exact hsurface _ _ h.symm
  · rw [require_eq_some h.symm, raised_why]
    decide
  · rw [require_eq_some h.symm, raised_why]
    decide

/-- A fault that such a command takes has the code of one of its checks. -/
theorem StoresSurface.code_of_fault {i : Instr} {s : State} {own : List (Option Raise)} {S D : Surface}
    {p : Nat → Nat → Nat} (hi : StoresSurface i s own S D p) {r' : Raise}
    (h : Machine.exec i s = .next (s.takeFault r')) :
    ∃ r, some r ∈ own ++ operandChecks S D s ∧ r.why.code = r'.why.code := by
  rw [hi.exec] at h
  obtain ⟨r, hr, he⟩ | ⟨-, he⟩ :=
    runChecked_cases (own ++ operandChecks S D s) ((s.touch [S.span, D.span]).storeSurface D p) s
  · rw [he, Host.Outcome.next.injEq] at h
    obtain ⟨c, hc, hcr⟩ := List.exists_of_findSome?_eq_some hr
    exact ⟨r, hcr ▸ hc, congrArg (fun t : State => t.err.code) h⟩
  · rw [he, Host.Outcome.next.injEq] at h
    have hcp : s.cp + 32#32 = s.cp := by simpa using congrArg State.cp h
    exact absurd hcp (add_32_ne_self s.cp)

theorem exec_compose_code_ne_four (t : Fmt) (src : Nat) {w h : Nat} (dst : Nat) {s : State} (hw : w ≠ 0)
    (hh : h ≠ 0) (hcw : s.cfg.canvasW.toNat ≠ 0) (hch : s.cfg.canvasH.toNat ≠ 0) {r' : Raise}
    (hcode : r'.why.code = 4) : exec (.compose t src w h dst) s ≠ .next (s.takeFault r') := by
  intro hfault
  obtain ⟨sw, sh, hdims, hsw, hsh⟩ := exists_scaleDims_le hw hh hcw hch
  obtain ⟨r, hr, hsame⟩ := (storesSurface_compose t src w h dst s hdims).code_of_fault hfault
  rw [hcode] at hsame
  obtain hr | hr := List.mem_append.1 hr
  · simp only [composeChecks, chkNotNull_of_pos t src hw hh, require_pos hsw, require_pos hsh, List.mem_cons,
      List.not_mem_nil, or_false, false_or, reduceCtorEq] at hr
    rw [require_eq_some hr.symm] at hsame
    exact absurd hsame (by decide)
  · have hge := operandChecks_code hr
    rw [hsame] at hge
    exact absurd hge (by decide)

/-- Settles O30: the first failing check of COMPOSE's own, by the canvas and the border value. -/
theorem composeReportsFillAndRange : Obligations.ComposeReportsFillAndRange := by
  intro t src w h dst s hw hh
  rw [← fillValue_le_iff]
  refine ⟨fun ht hbit hfill => ?v7, exec_compose_of_no_columns t src dst hw hh,
    exec_compose_of_no_rows t src dst hw hh, fun hcw hch opa opb addr => ⟨?g1, ?g2⟩⟩
  case v7 =>
    exact exec_compose_of_fill t src dst hw hh fun hle => (fillValue_le_iff t s.cfg).1 hle ⟨ht, hbit, hfill⟩
  case g1 => exact exec_compose_code_ne_four t src dst hw hh hcw hch rfl
  case g2 => exact exec_compose_code_ne_four t src dst hw hh hcw hch rfl

/-! ### The canvas -/

section
variable {fill yo xo sh sw : Nat} {p : Nat → Nat → Nat}

theorem canvasSample_window {i j : Nat} (hi : i < sh) (hj : j < sw) :
    canvasSample fill yo xo sh sw p (yo + i) (xo + j) = p i j := by
  rw [canvasSample, if_pos (by omega), Nat.add_sub_cancel_left, Nat.add_sub_cancel_left]

theorem canvasSample_border {y x : Nat} (h : ¬ (yo ≤ y ∧ y < yo + sh ∧ xo ≤ x ∧ x < xo + sw)) :
    canvasSample fill yo xo sh sw p y x = fill := if_neg h

/-- The scaled image has samples of the source's format. -/
theorem scaled_le {w h i j m : Nat} (hw : w ≠ 0) (hh : h ≠ 0) (hi : i < sh) (hj : j < sw)
    (hp : ∀ y x, p y x ≤ m) : scaled w h p sw sh i j ≤ m := by
  unfold scaled
  split
  · exact hp i j
  · exact (box_bounds (lo := 0) (Nat.pos_of_ne_zero hw) (Nat.pos_of_ne_zero hh) hi hj
      fun v u _ _ _ => ⟨Nat.zero_le _, hp v u⟩).2

end

section
variable {t : Fmt} {src w h sw sh : Nat} {s : State}

theorem composeSample_window (hw : w ≠ 0) (hh : h ≠ 0) {i j : Nat} (hi : i < sh) (hj : j < sw) :
    composeSample t src w h s sw sh (placement s.cfg.center s.cfg.canvasH.toNat sh + i)
        (placement s.cfg.center s.cfg.canvasW.toNat sw + j) % 256 ^ bpe t =
      scaled w h ((⟨src, w, h, t⟩ : Surface).pix s) sw sh i j := by
  rw [composeSample, canvasSample_window hi hj]
  exact mod_pow_bpe (scaled_le hw hh hi hj ((⟨src, w, h, t⟩ : Surface).pix_le s))

theorem composeSample_border (hfill : fillValue t s.cfg ≤ maxOf t) {y x : Nat}
    (hout : ¬ (placement s.cfg.center s.cfg.canvasH.toNat sh ≤ y ∧
      y < placement s.cfg.center s.cfg.canvasH.toNat sh + sh ∧
      placement s.cfg.center s.cfg.canvasW.toNat sw ≤ x ∧
      x < placement s.cfg.center s.cfg.canvasW.toNat sw + sw)) :
    composeSample t src w h s sw sh y x % 256 ^ bpe t = fillValue t s.cfg := by
  rw [composeSample, canvasSample_border hout]
  exact mod_pow_bpe hfill

end

/-- Settles O29: the shape of COMPOSE; the window lies in the canvas, and its samples and the border value fit
the format. -/
theorem composeFillsAndBlits : Obligations.ComposeFillsAndBlits := by
  rintro t src w h dst s _ _ _ sw sh _ _ rfl rfl rfl hdims rfl rfl hw hh hfit hsw hsh hS hC hap hfree
  obtain ⟨u, hu, honly, hout, hpix⟩ := (storesSurface_compose t src w h dst s hdims).completes_frame_pix
    (composeChecks_pass t src hw hh hfit hsw hsh) hS hC hap hfree
  refine ⟨u, hu, honly, hout, fun hund => ⟨fun i j hi hj => ?window, fun y x hy hx hborder => ?border⟩⟩
  case window =>
    have hy := (Nat.add_lt_add_left hi _).trans_le (placement_add_le hsh s.cfg.center)
    have hx := (Nat.add_lt_add_left hj _).trans_le (placement_add_le hsw s.cfg.center)
    exact (hpix hund _ _ hy hx).trans (composeSample_window hw hh hi hj)
  case border => exact (hpix hund y x hy hx).trans (composeSample_border hfit hborder)

end Sys2Proof.Machine
end

section
/-! PROOFS. 43_bitplane_dither.md R99 to R101, 41_tone.md R88, 60_exceptions.md R115 to R118: the dither
commands, and the faults of every command of one or three operands. -/

namespace Sys2Proof.Machine

/-! ## The dither frames -/

/-- A frame value is a U8 sample (43_bitplane_dither.md R98). -/
theorem frameVal_mod_pow_bpe (ge : Bool) (v f : Nat) : frameVal ge v f % 256 ^ bpe .u8 = frameVal ge v f :=
  mod_pow_bpe (t := .u8) (Nat.min_le_left _ _)

section
variable {src w h dst : Nat} {s : State} (hw : w ≠ 0) (hh : h ≠ 0)
include hw hh

theorem dith1Checks_pass {f : Nat} (hf : f < s.cfg.frames.toNat) :
    ∀ c ∈ [chkNotNull ⟨src, w, h, .u16⟩, require (Fmt.u16 = .u16) (raised .v4 opSrc 0 0),
      require (s.cfg.frames.toNat ≠ 0) (raised .v5 opCmd 0 0),
      require (f < s.cfg.frames.toNat) (raised .v6 opCmd 0 0)], c = none := by
  simp [chkNotNull_of_pos .u16 src hw hh, hf, Nat.ne_zero_of_lt hf]

theorem dithnChecks_pass (hn : s.cfg.frames.toNat ≠ 0) :
    ∀ c ∈ [chkNotNull ⟨src, w, h, .u16⟩, require (Fmt.u16 = .u16) (raised .v4 opSrc 0 0),
      require (s.cfg.frames.toNat ≠ 0) (raised .v5 opCmd 0 0)], c = none := by
  simp [chkNotNull_of_pos .u16 src hw hh, hn]

end

/-- Settles O34: the shape of DITH1. -/
theorem dith1WritesOneFrame : Obligations.Dith1WritesOneFrame := by
  rintro src w h dst f s _ _ rfl rfl hw hh hf hS hD hap hfree
  obtain ⟨u, hu, honly, hout, hpix⟩ := (storesSurface_dith1 .u16 src w h dst s f).completes_frame_pix
    (dith1Checks_pass hw hh hf) hS hD hap hfree
  exact ⟨u, hu, honly, hout, fun hund y x hy hx =>
    (hpix hund y x hy hx).trans (frameVal_mod_pow_bpe _ _ _)⟩

/-- Frame k of a set of n frames is rows k*h to k*h + h - 1 of the set. -/
theorem pix_frame_eq (u : State) (dst w h n k y x : Nat) :
    (⟨dst + k * w * h, w, h, .u8⟩ : Surface).pix u y x =
      (⟨dst, w, n * h, .u8⟩ : Surface).pix u (k * h + y) x := by
  have haddr : (⟨dst + k * w * h, w, h, .u8⟩ : Surface).addr y x =
      (⟨dst, w, n * h, .u8⟩ : Surface).addr (k * h + y) x := by
    simp only [Surface.addr, bpe]
    ring
  rw [Surface.pix, haddr, Surface.pix]

theorem frame_row_lt {n h k y : Nat} (hk : k < n) (hy : y < h) : k * h + y < n * h :=
  calc k * h + y < k * h + h := Nat.add_lt_add_left hy _
    _ = (k + 1) * h := (Nat.succ_mul k h).symm
    _ ≤ n * h := Nat.mul_le_mul_right h hk

/-- Row k*h + y of the set is row y of the source, dithered for frame k (43_bitplane_dither.md R101). -/
theorem dithn_sample (ge : Bool) (P : Nat → Nat → Nat) {h k y : Nat} (hy : y < h) (x : Nat) :
    frameVal ge (P ((k * h + y) % h) x) ((k * h + y) / h) = frameVal ge (P y x) k := by
  have hpos := Nat.zero_lt_of_lt hy
  rw [Nat.mul_add_mod_of_lt hy, Nat.mul_comm k h, Nat.mul_add_div hpos, Nat.div_eq_of_lt hy, Nat.add_zero]

/-- Settles O35: the shape of DITHN, read frame by frame. -/
theorem dithnWritesTheFrameSet : Obligations.DithnWritesTheFrameSet := by
  rintro src w h dst s _ _ rfl rfl hw hh hn hS hD hap hfree
  obtain ⟨u, hu, honly, hout, hpix⟩ := (storesSurface_dithn .u16 src w h dst s).completes_frame_pix
    (dithnChecks_pass hw hh hn) hS hD hap hfree
  refine ⟨u, hu, honly, hout, fun hund k y x hk hy hx => ?_⟩
  rw [pix_frame_eq u dst w h s.cfg.frames.toNat, hpix hund _ _ (frame_row_lt hk hy) hx, frameVal_mod_pow_bpe,
    dithn_sample _ _ hy]
  rfl

/-- A sample of a U8 surface is its byte. -/
theorem pix_u8 (u : State) (base w h y x : Nat) :
    (⟨base, w, h, .u8⟩ : Surface).pix u y x = (u.readByte (base + (y * w + x))).toNat := by
  simp [Surface.pix, Surface.addr, State.memRead, leValue, bpe]

/-- Settles O36: byte k of either frame is the frame value of sample (k / w, k mod w). -/
theorem dith1EqualsAFrameOfDithn : Obligations.Dith1EqualsAFrameOfDithn := by
  intro src w h dst one f s u v hundn hund1 hf hu hbu hv hbv k hk
  have hn := storesSurface_dithn .u16 src w h dst s
  have h1 := storesSurface_dith1 .u16 src w h one s f
  obtain ⟨-, rfl⟩ := hn.of_completes hu hbu
  obtain ⟨-, rfl⟩ := h1.of_completes hv hbv
  have hw : 0 < w := Nat.pos_of_mul_pos_right (Nat.zero_lt_of_lt hk)
  have hx : k % w < w := Nat.mod_lt k hw
  have hy : k / w < h := Nat.div_lt_of_lt_mul hk
  have hindex : k / w * w + k % w = k := Nat.div_add_mod' k w
  have hpixn := hn.pix_eq hundn (frame_row_lt hf hy) hx
  have hpix1 := h1.pix_eq hund1 hy hx
  rw [← pix_frame_eq, pix_u8, hindex, frameVal_mod_pow_bpe, dithn_sample _ _ hy] at hpixn
  rw [pix_u8, hindex, frameVal_mod_pow_bpe] at hpix1
  exact BitVec.eq_of_toNat_eq (hpix1.trans hpixn.symm)

/-! ## The bit planes -/

/-- DECOMP's checks of its operands, in the order of R118. -/
def planeChecks (S B M : Surface) (s : State) : List (Option Raise) :=
  [chkSurface S opSrc s, chkSurface B opDst0 s, chkSurface M opDst1 s,
   chkOverlap S opSrc B opDst0, chkOverlap S opSrc M opDst1, chkOverlap B opDst0 M opDst1,
   chkFiu B opDst0 s, chkFiu M opDst1 s]

/-- What a DECOMP that completes leaves behind (43_bitplane_dither.md R99). -/
def decompDone (S B M : Surface) (s : State) : State :=
  (((s.touch [S.span, B.span, M.span]).storeSurface B fun y x => baseOf (S.pix s y x)).storeSurface M
    fun y x => remainderOf (S.pix s y x)).advance

section
variable {src w h dstb dstr : Nat} {s : State} {S B M : Surface} (hS : S = ⟨src, w, h, .u16⟩)
  (hB : B = ⟨dstb, w, h, .u8⟩) (hM : M = ⟨dstr, w, h, .u8⟩) (hw : w ≠ 0) (hh : h ≠ 0)
include hS hB hM hw hh

theorem exec_decomp_of_fault {r : Raise} (hr : firstRaise (planeChecks S B M s) = some r) :
    exec (.decomp .u16 src w h dstb dstr) s = .next (s.takeFault r) := by
  subst hS hB hM
  refine runChecked_fault ?_
  rw [chkNotNull_of_pos .u16 src hw hh, require_pos rfl]
  exact hr

theorem exec_decomp_of_pass (hpass : ∀ c ∈ planeChecks S B M s, c = none) :
    exec (.decomp .u16 src w h dstb dstr) s = .next (decompDone S B M s) := by
  subst hS hB hM
  refine runChecked_pass fun c hc => ?_
  rw [chkNotNull_of_pos .u16 src hw hh, require_pos rfl, List.mem_cons, List.mem_cons] at hc
  obtain rfl | rfl | hc := hc
  · rfl
  · rfl
  · exact hpass c hc

end

section
variable {s : State} {S B M : Surface}

theorem decompDone_onlyMemoryChanged : s.OnlyMemoryChanged (decompDone S B M s) := by
  unfold State.OnlyMemoryChanged decompDone State.storeSurface State.store
  split <;> split <;> rfl

theorem readByte_decompDone_outside {a : Nat} (hb : B.span.holds a = false) (hm : M.span.holds a = false) :
    (decompDone S B M s).readByte a = s.readByte a := by
  rw [decompDone, State.readByte_advance, State.readByte_storeSurface_outside _ _ _ hm,
    State.readByte_storeSurface_outside _ _ _ hb, State.readByte_touch]

section
variable {y x : Nat} (hclean : (s.touch [S.span, B.span, M.span]).race.tainted = false)
include hclean

theorem pix_base_decompDone (hy : y < B.h) (hx : x < B.w) (hap : B.span.Apart M.span) :
    B.pix (decompDone S B M s) y x = baseOf (S.pix s y x) % 256 ^ bpe B.fmt :=
  (Surface.pix_storeSurface_apart _ B M _ hy hx hap).trans (Surface.pix_storeSurface _ B _ hclean hy hx)

theorem pix_remainder_decompDone (hy : y < M.h) (hx : x < M.w) :
    M.pix (decompDone S B M s) y x = remainderOf (S.pix s y x) % 256 ^ bpe M.fmt :=
  Surface.pix_storeSurface _ M _ (by rw [State.storeSurface_race]; exact hclean) hy hx

end

end

/-- Settles O33: both planes' samples fit one byte, and the second plane does not overwrite the first. -/
theorem decompWritesBothPlanes : Obligations.DecompWritesBothPlanes := by
  intro src w h dstb dstr s S B M hS hB hM hw hh pS pB pM aSB aSM aBM fB fM
  refine ⟨_, exec_decomp_of_pass hS hB hM hw hh ?pass, decompDone_onlyMemoryChanged,
    fun a => readByte_decompDone_outside, fun hund y x hy hx => ?planes⟩
  case pass =>
    simp only [planeChecks, chkSurface_eq_none.2 pS, chkSurface_eq_none.2 pB, chkSurface_eq_none.2 pM,
      chkOverlap_eq_none.2 aSB, chkOverlap_eq_none.2 aSM, chkOverlap_eq_none.2 aBM, chkFiu_eq_none.2 fB,
      chkFiu_eq_none.2 fM, List.mem_cons, List.not_mem_nil, or_false, or_self, imp_self, implies_true]
  case planes =>
    subst hS hB hM
    have hclean : (s.touch [_, _, _]).race.tainted = false :=
      State.touch_tainted_of_not_disturbed (l := [_, _, _]) hund rfl
    have hle := Nat.lt_succ_of_le ((⟨src, w, h, .u16⟩ : Surface).pix_le s y x)
    have hrem := remainderOf_lt ((⟨src, w, h, .u16⟩ : Surface).pix s y x)
    rw [pix_base_decompDone hclean hy hx aBM, pix_remainder_decompDone hclean hy hx]
    exact ⟨mod_pow_bpe (t := .u8) (baseOf_le hle), mod_pow_bpe (t := .u8) (show _ ≤ 255 by omega)⟩

/-! ## The faults in order -/

/-- A U8 surface of w by h samples that reaches beyond LMEM. -/
theorem chkSurface_u8_of_outside {s : State} {base w h : Nat} (id : Byte)
    (hout : s.params.lmemSize < base + w * h) :
    chkSurface ⟨base, w, h, .u8⟩ id s = some ⟨.a4, id, 0, BitVec.ofNat 32 base⟩ :=
  chkSurface_of_outside id nofun (by simpa [Surface.len, bpe] using hout)

/-- Settles O40: each clause is the first failing check of DECOMP's list. -/
theorem decompReportsThreeOperands : Obligations.DecompReportsThreeOperands := by
  rintro src w h dstb dstr s _ _ _ rfl rfl rfl hw hh
  have hfault : ∀ {r : Raise}, firstRaise (planeChecks ⟨src, w, h, .u16⟩ ⟨dstb, w, h, .u8⟩ ⟨dstr, w, h, .u8⟩ s) =
      some r → exec (.decomp .u16 src w h dstb dstr) s = .next (s.takeFault r) :=
    exec_decomp_of_fault rfl rfl rfl hw hh
  refine ⟨fun hodd => hfault ?srcOdd, fun heven hout => hfault ?srcRange, fun hS hout => hfault ?baseRange,
    fun hS hB hout => hfault ?remainderRange, fun hS hB hM => ⟨fun aSB => hfault ?overlap12,
      fun aSB aSM => hfault ?overlap13, fun aSB aSM aBM => hfault ?overlap23,
      fun aSB aSM aBM fB => hfault ?baseInUse, fun aSB aSM aBM fB fM => hfault ?remainderInUse⟩⟩
  case srcOdd =>
    rw [planeChecks, chkSurface_of_odd opSrc rfl hodd]
    rfl
  case srcRange =>
    rw [planeChecks, chkSurface_of_outside opSrc (fun _ => heven) hout]
    rfl
  case baseRange =>
    rw [planeChecks, chkSurface_eq_none.2 hS, chkSurface_u8_of_outside opDst0 hout]
    rfl
  case remainderRange =>
    rw [planeChecks, chkSurface_eq_none.2 hS, chkSurface_eq_none.2 hB, chkSurface_u8_of_outside opDst1 hout]
    rfl
  all_goals
    rw [planeChecks, chkSurface_eq_none.2 hS, chkSurface_eq_none.2 hB, chkSurface_eq_none.2 hM]
  case overlap12 =>
    rw [chkOverlap_of_shared _ _ aSB]
    rfl
  all_goals rw [chkOverlap_eq_none.2 aSB]
  case overlap13 =>
    rw [chkOverlap_of_shared _ _ aSM]
    rfl
  all_goals rw [chkOverlap_eq_none.2 aSM]
  case overlap23 =>
    rw [chkOverlap_of_shared _ _ aBM]
    rfl
  all_goals rw [chkOverlap_eq_none.2 aBM]
  case baseInUse =>
    rw [chkFiu_of_presented _ fB]
    rfl
  case remainderInUse =>
    rw [chkFiu_eq_none.2 fB, chkFiu_of_presented _ fM]
    rfl

/-- Settles O39: each command has the shape, and its own checks hold. -/
theorem operandFaultsInOrder : Obligations.OperandFaultsInOrder := by
  intro t src w h dst f s hw hh
  refine ⟨fun hlut => ?lut, ?inv, fun hcw hch hfill => ?compose, fun hf => ?dith1, fun hn => ?dithn⟩
  case lut =>
    exact (storesSurface_lut t src w h dst s).reportsOperandFaults
      (by simp [chkNotNull_of_pos t src hw hh, hlut])
  case inv =>
    exact (storesSurface_inv t src w h dst s).reportsOperandFaults (by simp [chkNotNull_of_pos t src hw hh])
  case compose =>
    have hfits : fillValue t s.cfg ≤ maxOf t := by
      rw [fillValue_le_iff]
      rintro ⟨rfl, hbit, hlarge⟩
      exact hfill.elim (Bool.eq_false_iff.1 hbit) (Nat.not_le.2 hlarge)
    obtain ⟨sw, sh, hdims, hsw, hsh⟩ := exists_scaleDims_le hw hh hcw hch
    exact (storesSurface_compose t src w h dst s hdims).reportsOperandFaults
      (composeChecks_pass t src hw hh hfits hsw hsh)
  case dith1 =>
    exact (storesSurface_dith1 .u16 src w h dst s f).reportsOperandFaults (dith1Checks_pass hw hh hf)
  case dithn =>
    exact (storesSurface_dithn .u16 src w h dst s).reportsOperandFaults (dithnChecks_pass hw hh hn)

/-- Settles O37: V4, V5 and V6 stand in this order before the operands' checks. -/
theorem ditherCommandsReportFormatAndFrames : Obligations.DitherCommandsReportFormatAndFrames := by
  intro t src w h dst dstr f s hw hh
  have hnull := chkNotNull_of_pos t src hw hh
  have h1 := storesSurface_dith1 t src w h dst s f
  have hn := storesSurface_dithn t src w h dst s
  refine ⟨fun ht => ?v4, fun ht hzero => ?v5, fun ht hzero hf => ?v6⟩
  case v4 =>
    have hne : ¬ t = .u16 := by simp [ht]
    refine ⟨runChecked_fault ?_, h1.fault_of_own ?_, hn.fault_of_own ?_⟩ <;>
      · rw [hnull, require_neg hne]
        rfl
  case v5 =>
    refine ⟨h1.fault_of_own ?_, hn.fault_of_own ?_⟩ <;>
      · rw [hnull, require_pos ht, require_neg (not_not.2 hzero)]
        rfl
  case v6 =>
    refine h1.fault_of_own ?_
    rw [hnull, require_pos ht, require_pos hzero, require_neg (Nat.not_lt.2 hf)]
    rfl

theorem gridAt_len (src : Nat) : (gridAt src).len = 131072 := by
  rw [show (gridAt src).len = 256 * 256 * 2 from rfl]

/-- Settles O21: LUTLD's checks in their order. -/
theorem lutldRefusesBadGrids : Obligations.LutldRefusesBadGrids := by
  intro t src w h s
  refine ⟨execLutld_of_width t src s, execLutld_of_height t src s, fun hw hh ht => ?v3,
    fun hw hh ht hodd => ?a3, fun hw hh ht heven hout => ?a4⟩ <;> refine runChecked_fault ?_
  case v3 =>
    have hne : ¬ t = .u16 := by simp [ht]
    rw [require_pos hw, require_pos hh, require_neg hne]
    rfl
  all_goals
    subst hw hh ht
    rw [require_pos rfl, require_pos rfl, require_pos rfl]
  case a3 =>
    rw [chkSurface_of_odd opSrc rfl hodd]
    rfl
  case a4 =>
    have hgrid := chkSurface_of_outside (S := gridAt src) opSrc (fun _ => heven) (by rwa [gridAt_len])
    exact congrArg (fun c => firstRaise [none, none, none, c]) hgrid

end Sys2Proof.Machine
end

section
/-! PROOFS. 44_sequencer.md R105, R106: a sequencer START, accepted or refused. -/

namespace Sys2Proof.Machine

/-- Settles O43: the accepted START latches, and its interval fits the register. -/
theorem sequencerStartPresentsFrameZero : Obligations.SequencerStartPresentsFrameZero := by
  intro s hn hw hh hfits
  have hok : s.seqRefusal = 0 := State.seqRefusal_eq_zero.2 ⟨hn, hw, hh, hfits⟩
  rw [State.writeReg_seqCtrl_one, State.seqStart_interval hok, State.seqStart_of_accepted hok]
  exact ⟨rfl, rfl⟩

/-- A refused START stops the sequencer and reports its code; what was latched stays. -/
theorem State.seqStart_of_refused {s : State} (h : s.seqRefusal ≠ 0) :
    s.seqStart =
      { s with
        seq := { s.seq with run := false, err := BitVec.ofNat 8 s.seqRefusal }
        irqStatus := s.irqStatus ||| 64#8 } := if_neg h

/-- The codes of 44_sequencer.md R106, each with the check that fails first. -/
theorem State.seqRefusal_eq {s : State} {e : Nat}
    (h : (s.cfg.frames.toNat = 0 ∧ e = 1) ∨
      (s.cfg.frames.toNat ≠ 0 ∧ (s.cfg.canvasW.toNat = 0 ∨ s.cfg.canvasH.toNat = 0) ∧ e = 2) ∨
      (s.cfg.frames.toNat ≠ 0 ∧ s.cfg.canvasW.toNat ≠ 0 ∧ s.cfg.canvasH.toNat ≠ 0 ∧
        s.params.lmemSize <
          s.seqCfg.base.toNat + s.cfg.frames.toNat * s.cfg.canvasW.toNat * s.cfg.canvasH.toNat ∧ e = 3)) :
    s.seqRefusal = e := by
  obtain ⟨hn, rfl⟩ | ⟨hn, hdim, rfl⟩ | ⟨hn, hw, hh, hout, rfl⟩ := h
  · exact if_pos hn
  · rw [State.seqRefusal, if_neg hn, if_pos hdim]
  · rw [State.seqRefusal, if_neg hn, if_neg (not_or.2 ⟨hw, hh⟩), if_pos hout]

/-- Settles O44: the three codes are not 0, so the START is refused with its own. -/
theorem sequencerStartRefusalsInOrder : Obligations.SequencerStartRefusalsInOrder := by
  intro s e h
  have he := State.seqRefusal_eq h
  have hne : s.seqRefusal ≠ 0 := by omega
  rw [State.writeReg_seqCtrl_one, State.seqStart_of_refused hne, he]

end Sys2Proof.Machine
end

section
/-! PROOFS. 10_state.md R22, R23: the locks, and the register port. -/

namespace Sys2Proof.Machine

/-! ## The locks -/

section
variable {s : State}

/-- LOCK_VIOL is bit 7 of IRQ_STATUS (10_state.md R36). -/
theorem State.setCfg_of_busy (hb : s.ceBusy = true) (c : CeConfig) :
    s.setCfg c = { s with irqStatus := s.irqStatus ||| 128#8 } := if_pos hb

theorem State.setCfg_of_idle (hi : s.ceBusy = false) (c : CeConfig) : s.setCfg c = { s with cfg := c } :=
  if_neg (by simp [hi])

theorem State.setSeqCfg_of_running (hr : s.seq.run = true) (c : SeqConfig) :
    s.setSeqCfg c = { s with irqStatus := s.irqStatus ||| 128#8 } := if_pos hr

theorem State.setSeqCfg_of_stopped (hr : s.seq.run = false) (c : SeqConfig) :
    s.setSeqCfg c = { s with seqCfg := c } := if_neg (by simp [hr])

end

/-- A register of n bits reads back the low bits of what was written (10_state.md R22). -/
theorem setWidth_setWidth_eq_and (v : Word) {n : Nat} (hn : n ≤ 32) :
    (v.setWidth n).setWidth 32 = v &&& BitVec.ofNat 32 (2 ^ n - 1) := by
  apply BitVec.eq_of_toNat_eq
  have hlt : 2 ^ n - 1 < 2 ^ 32 := by
    have := Nat.pow_le_pow_right (n := 2) (by decide) hn
    omega
  have hv : v.toNat % 2 ^ n < 2 ^ 32 := (Nat.mod_le _ _).trans_lt v.isLt
  rw [BitVec.toNat_and, BitVec.toNat_ofNat, Nat.mod_eq_of_lt hlt, Nat.and_two_pow_sub_one_eq_mod,
    BitVec.toNat_setWidth, BitVec.toNat_setWidth, Nat.mod_eq_of_lt hv]

/-- Settles O49, register by register, from the two locks. -/
theorem lockedWritesAreDroppedAndReported : Obligations.LockedWritesAreDroppedAndReported := by
  intro s v
  refine ⟨fun hb r hr => ?busy, fun hr r hmem => ?running, fun hi => ?idle, fun hi => ?readBack,
    fun hi => ?readFrames, fun hr => ?stopped, fun hr => ?readSeq⟩
  case busy =>
    simp only [List.mem_cons, List.not_mem_nil, or_false] at hr
    obtain rfl | rfl | rfl | rfl | rfl | rfl := hr <;> exact State.setCfg_of_busy hb _
  case running =>
    simp only [List.mem_cons, List.not_mem_nil, or_false] at hmem
    obtain rfl | rfl | rfl | rfl := hmem <;> exact State.setSeqCfg_of_running hr _
  case idle =>
    exact ⟨State.setCfg_of_idle hi _, State.setCfg_of_idle hi _, State.setCfg_of_idle hi _,
      State.setCfg_of_idle hi _, State.setCfg_of_idle hi _, State.setCfg_of_idle hi _⟩
  case readBack =>
    refine ⟨?_, ?_, fun r hmem => ?_⟩
    · rw [State.writeReg, State.setCfg_of_idle hi, State.readReg]
    · rw [State.writeReg, State.setCfg_of_idle hi, State.readReg]
      exact setWidth_setWidth_eq_and v (by decide)
    · simp only [List.mem_cons, List.not_mem_nil, or_false] at hmem
      obtain rfl | rfl | rfl := hmem <;>
        · rw [State.writeReg, State.setCfg_of_idle hi, State.readReg]
          exact setWidth_setWidth_eq_and v (by decide)
  case readFrames =>
    rw [State.writeReg, State.setCfg_of_idle hi, State.readReg]
    exact setWidth_setWidth_eq_and v (by decide)
  case stopped =>
    exact ⟨State.setSeqCfg_of_stopped hr _, State.setSeqCfg_of_stopped hr _,
      State.setSeqCfg_of_stopped hr _, State.setSeqCfg_of_stopped hr _⟩
  case readSeq =>
    refine ⟨fun r hmem => ?_, ?_⟩
    · simp only [List.mem_cons, List.not_mem_nil, or_false] at hmem
      obtain rfl | rfl | rfl := hmem <;> rw [State.writeReg, State.setSeqCfg_of_stopped hr, State.readReg]
    · rw [State.writeReg, State.setSeqCfg_of_stopped hr, State.readReg]
      exact setWidth_setWidth_eq_and v (by decide)

/-! ## The register port -/

section
variable {s : State}

theorem State.portRefusal_of_outside {n : Width} {a : Nat}
    (h : a < s.params.regBase ∨ s.params.regBase + 256 ≤ a) :
    s.portRefusal n a = some .outsideRegisterBlock := if_pos h

variable {o : Nat} (ho : o < 256)
include ho

theorem State.portRefusal_of_narrow {n : Width} (h : n ≠ .b4 ∨ o % 4 ≠ 0) :
    s.portRefusal n (s.params.regBase + o) = some .narrowRegisterAccess := by
  rw [State.portRefusal, if_neg (by omega), Nat.add_sub_cancel_left, if_pos h]

theorem State.portRefusal_of_aligned (h : o % 4 = 0) : s.portRefusal .b4 (s.params.regBase + o) = none := by
  rw [State.portRefusal, if_neg (by omega), Nat.add_sub_cancel_left, if_neg (by simp [h])]

theorem hostRegRead_of_aligned (h : o % 4 = 0) :
    hostRegRead .b4 (s.params.regBase + o) s =
      .next { s with record := .register o (s.readOffset o) :: s.record } := by
  rw [hostRegRead, State.portRefusal_of_aligned ho h, Nat.add_sub_cancel_left]
  rfl

theorem hostRegWrite_of_aligned (h : o % 4 = 0) (v : Word) :
    hostRegWrite .b4 (s.params.regBase + o) v s = .next (s.writeOffset o v) := by
  rw [hostRegWrite, State.portRefusal_of_aligned ho h, Nat.add_sub_cancel_left]

end

section
variable {n : Width} {a : Nat} {s : State} {r : Refusal}

theorem hostRegRead_of_refused (h : s.portRefusal n a = some r) : hostRegRead n a s = .refused r := by
  rw [hostRegRead, h]

theorem hostRegWrite_of_refused (h : s.portRefusal n a = some r) (v : Word) :
    hostRegWrite n a v s = .refused r := by
  rw [hostRegWrite, h]

end

theorem Reg.offset_lt (r : Reg) : r.offset < 0x74 := by cases r <;> decide

section
variable (s : State)

theorem State.readOffset_offset (r : Reg) : s.readOffset r.offset = s.readReg r := by
  rw [State.readOffset, Reg.ofOffset_offset]

theorem State.writeOffset_offset (r : Reg) (v : Word) : s.writeOffset r.offset v = s.writeReg r v := by
  rw [State.writeOffset, Reg.ofOffset_offset]

theorem Reg.ofOffset_of_reserved {o : Nat} (h : 0x74 ≤ o) : Reg.ofOffset o = none := by
  cases hr : Reg.ofOffset o with
  | none => rfl
  | some r =>
    have hlt := r.offset_lt
    rw [Reg.ofOffset_eq_some hr] at hlt
    omega

theorem State.readOffset_of_reserved {o : Nat} (h : 0x74 ≤ o) : s.readOffset o = 0 := by
  rw [State.readOffset, Reg.ofOffset_of_reserved h]

theorem State.writeOffset_of_reserved {o : Nat} (h : 0x74 ≤ o) (v : Word) : s.writeOffset o v = s := by
  rw [State.writeOffset, Reg.ofOffset_of_reserved h]

/-- The read-only registers of the map (10_state.md R21). -/
def Reg.readOnly : List Reg :=
  [.id, .status, .cp, .errCode, .errInfo, .errAddr, .errCp, .seqInterval, .seqIndex, .seqElapsed, .seqShown,
   .seqN, .seqGeom, .seqErr, .seqPresAddr]

theorem State.writeReg_of_readOnly {r : Reg} (h : r ∈ Reg.readOnly) (v : Word) : s.writeReg r v = s := by
  simp only [Reg.readOnly, List.mem_cons, List.not_mem_nil, or_false] at h
  obtain rfl | rfl | rfl | rfl | rfl | rfl | rfl | rfl | rfl | rfl | rfl | rfl | rfl | rfl | rfl := h <;> rfl

theorem flags_getLsbD (a b c d : Bool) :
    (BitVec.ofNat 32 (a.toNat + 2 * b.toNat + 4 * c.toNat + 8 * d.toNat)).getLsbD 0 = a ∧
    (BitVec.ofNat 32 (a.toNat + 2 * b.toNat + 4 * c.toNat + 8 * d.toNat)).getLsbD 1 = b ∧
    (BitVec.ofNat 32 (a.toNat + 2 * b.toNat + 4 * c.toNat + 8 * d.toNat)).getLsbD 2 = c ∧
    (BitVec.ofNat 32 (a.toNat + 2 * b.toNat + 4 * c.toNat + 8 * d.toNat)).getLsbD 3 = d := by
  revert a b c d
  decide

/-- STATUS has its four flags in bits 0 to 3 and nothing above (10_state.md R26). -/
theorem State.status_getLsbD (i : Nat) : s.status.getLsbD i =
    match i with
    | 0 => s.ceBusy
    | 1 => s.lutValid
    | 2 => s.seq.run
    | 3 => s.abortPend
    | _ => false := by
  obtain ⟨h0, h1, h2, h3⟩ := flags_getLsbD s.ceBusy s.lutValid s.seq.run s.abortPend
  match i with
  | 0 => exact h0
  | 1 => exact h1
  | 2 => exact h2
  | 3 => exact h3
  | j + 4 =>
    have ha := s.ceBusy.toNat_le
    have hb := s.lutValid.toNat_le
    have hc := s.seq.run.toNat_le
    have hd := s.abortPend.toNat_le
    have hpow : 2 ^ 4 ≤ 2 ^ (j + 4) := Nat.pow_le_pow_right (by decide) (by omega)
    rw [State.status, BitVec.getLsbD_ofNat, Nat.testBit_lt_two_pow (by omega), Bool.and_false]
    rfl

end

/-- Settles O51: the port by its refusals, and the map by the register at each offset. -/
theorem registerPortFollowsTheAccessRules : Obligations.RegisterPortFollowsTheAccessRules := by
  intro s n v
  refine ⟨fun a ha => ?outside, fun o ho => ⟨fun hn => ?narrow, fun h4 => ?aligned, fun hres => ?reserved,
    fun hmem => ?readOnly, fun hctrl => ?writeOnly, fun r => ⟨s.readOffset_offset r, s.writeOffset_offset r v⟩,
    ⟨rfl, rfl⟩, s.status_getLsbD, ?seq, rfl⟩⟩
  case outside =>
    have href := State.portRefusal_of_outside (n := n) ha
    exact ⟨hostRegRead_of_refused href, hostRegWrite_of_refused href v⟩
  case narrow =>
    have href := State.portRefusal_of_narrow (s := s) ho hn
    exact ⟨hostRegRead_of_refused href, hostRegWrite_of_refused href v⟩
  case aligned => exact ⟨hostRegRead_of_aligned ho h4, hostRegWrite_of_aligned ho h4 v⟩
  case reserved => exact ⟨s.readOffset_of_reserved hres, s.writeOffset_of_reserved hres v⟩
  case readOnly =>
    have hoffsets : o ∈ Reg.readOnly.map Reg.offset := hmem
    obtain ⟨r, hr, rfl⟩ := List.mem_map.1 hoffsets
    rw [State.writeOffset_offset, State.writeReg_of_readOnly s hr]
  case writeOnly => obtain rfl | rfl := hctrl <;> rfl
  case seq =>
    have hgeom : s.readOffset 0x68 = s.seq.h ++ s.seq.w := rfl
    rw [hgeom]
    exact ⟨rfl, rfl, rfl, rfl, rfl, BitVec.extractLsb'_append_eq_right, BitVec.extractLsb'_append_eq_left, rfl, rfl⟩

end Sys2Proof.Machine
end

section
/-! PROOFS. 44_sequencer.md R110: the display's reads. -/

namespace Sys2Proof.Machine

section
variable {s : State}

theorem State.presented_addr (s : State) (y x : Nat) :
    s.presented.addr y x = s.seq.presAddr.toNat + y * s.seq.w.toNat + x := by
  simp [State.presented, Surface.addr, bpe, Nat.add_assoc]

/-- A sample of the presented frame lies in the frame set, hence in LMEM. -/
theorem State.Playing.presented_addr_lt (hp : s.Playing) {y x : Nat} (hy : y < s.seq.h.toNat)
    (hx : x < s.seq.w.toNat) : s.presented.addr y x < s.params.lmemSize := by
  have hsample : y * s.seq.w.toNat + x < s.seq.w.toNat * s.seq.h.toNat := sample_index_lt hy hx
  have hframe : (s.seq.index.toNat + 1) * (s.seq.w.toNat * s.seq.h.toNat) ≤
      s.seq.n.toNat * (s.seq.w.toNat * s.seq.h.toNat) := Nat.mul_le_mul_right _ hp.index
  have hfits := hp.inLmem
  rw [State.presented_addr, hp.presAddr]
  rw [Nat.succ_mul] at hframe
  rw [Nat.mul_assoc] at hfits ⊢
  omega

theorem State.shownByte_mem (s : State) (a : Nat) : s.shownByte a ∈ s.shownBytes a := by
  have hne : s.shownBytes a ≠ [] := List.cons_ne_nil _ _
  unfold State.shownByte
  split
  case h_1 b hb => simp [hb]
  case h_2 =>
    have hlt : Config.freeChoice s.freeCount % (s.shownBytes a).length < (s.shownBytes a).length :=
      Nat.mod_lt _ (List.length_pos_iff.2 hne)
    rw [List.getD_eq_getElem _ _ hlt]
    exact List.getElem_mem hlt

/-- The display reads the present byte, or one the host overwrote during the playback (U6). -/
theorem State.shownByte_cases (s : State) (a : Nat) :
    s.shownByte a = s.readByte a ∨ (a, s.shownByte a) ∈ s.stale := by
  obtain h | h := List.mem_cons.1 (s.shownByte_mem a)
  · exact .inl h
  · obtain ⟨⟨b, v⟩, hc, hv⟩ := List.mem_map.1 h
    obtain ⟨hmem, ha⟩ := List.mem_filter.1 hc
    obtain rfl : b = a := by simpa using ha
    exact .inr (hv ▸ hmem)

end

/-- Settles O56: inside the frame by the bytes it may show, outside by the refusal, and idle. -/
theorem displayReadsThePresentedFrame : Obligations.DisplayReadsThePresentedFrame := by
  intro s y x
  refine ⟨fun hr hp hy hx => ?inside, fun hr => if_pos hr, fun hr hout => ?outside⟩
  case inside =>
    have hin := hp.presented_addr_lt hy hx
    have hbyte := s.shownByte_cases (s.presented.addr y x)
    have hframe : ¬ (s.presented.h ≤ y ∨ s.presented.w ≤ x) := not_or.2 ⟨Nat.not_le.2 hy, Nat.not_le.2 hx⟩
    rw [State.presented_addr] at hin hbyte
    refine ⟨_, ?_, hbyte⟩
    rw [displayRead, if_neg (by simp [hr]), if_neg hframe, State.presented_addr, if_neg (Nat.not_le.2 hin)]
    rfl
  case outside =>
    rw [displayRead, if_neg (by simp [hr])]
    exact if_pos hout

end Sys2Proof.Machine
end

section
/-! PROOFS. 20_memory.md R47 to R61, 93_implementation_defined.md U4 to U6, PL2, PL3: the host memory port, when
the engine is idle and when a run is busy. -/

namespace Sys2Proof.Machine

/-! ## Which accesses are carried out -/

theorem Width.bytes_le (n : Width) : n.bytes ≤ 4 := by cases n <;> decide

theorem Width.pow_bytes_le (n : Width) : 256 ^ n.bytes ≤ 2 ^ 32 :=
  Nat.pow_le_pow_right (n := 256) (by decide) n.bytes_le

section
variable {s : State} {n : Width} {addr : Nat}

theorem State.memRefusal_of_misaligned (h : addr % n.bytes ≠ 0) :
    s.memRefusal n addr = some .misalignedHostAccess := if_pos h

theorem State.memRefusal_of_outside (h : addr % n.bytes = 0) (hout : s.params.lmemSize < addr + n.bytes) :
    s.memRefusal n addr = some .hostAccessOutsideLmem := by
  rw [State.memRefusal, if_neg (not_not.2 h), if_pos hout]

theorem hostMemRead_of_refused {r : Refusal} (h : s.memRefusal n addr = some r) (races : List Nat) :
    hostMemRead n addr races s = .refused r := by
  rw [hostMemRead, h]

theorem hostMemWrite_of_refused {r : Refusal} (h : s.memRefusal n addr = some r) (v : Word)
    (races : List Nat) : hostMemWrite n addr v races s = .refused r := by
  simp only [hostMemWrite, h]

/-- The value a host read answers (20_memory.md R55). -/
def State.hostValue (s : State) (n : Width) (addr : Nat) (races : List Nat) : Word :=
  BitVec.ofNat 32 (leValue (s.hostByte races) addr n.bytes)

/-- The state in which a host write has noted what it does to the run and to the presented frames. -/
def State.noted (s : State) (I : Span) (races : List Nat) : State :=
  ((s.overwritePresented I).await I races).disturb I races

variable (h : addr % n.bytes = 0) (hin : addr + n.bytes ≤ s.params.lmemSize)
include h hin

theorem hostMemRead_of_accepted (races : List Nat) :
    hostMemRead n addr races s =
      .next ((s.await ⟨addr, n.bytes⟩ races).drawFree.observe
        (.memory n addr (s.hostValue n addr races))) := by
  rw [hostMemRead, State.memRefusal_eq_none.2 ⟨h, hin⟩]
  rfl

theorem hostMemWrite_of_accepted (v : Word) (races : List Nat) :
    hostMemWrite n addr v races s =
      .next ((s.noted ⟨addr, n.bytes⟩ races).putBytes addr n.bytes (leByte v.toNat)) := by
  simp only [hostMemWrite, State.memRefusal_eq_none.2 ⟨h, hin⟩]
  rfl

end

/-! ## What a write leaves behind -/

section
variable (s : State) (I : Span) (races : List Nat) (n : Width) (addr : Nat) (v : Word)

/-- The state after a host write that is carried out. -/
def State.written : State := (s.noted ⟨addr, n.bytes⟩ races).putBytes addr n.bytes (leByte v.toNat)

theorem State.noted_changes : s.noted I races =
    { s with race := (s.noted I races).race, stale := (s.noted I races).stale } := by
  obtain ⟨r, l, he, -⟩ := s.noted_eq I races
  rw [show s.noted I races = _ from he]

theorem State.written_eq : s.written races n addr v =
    { s with
      lmem := (s.written races n addr v).lmem, race := (s.written races n addr v).race
      stale := (s.written races n addr v).stale } := by
  unfold State.written
  rw [State.noted_changes]
  rfl

theorem State.readByte_noted : (s.noted I races).readByte = s.readByte := by
  rw [State.noted_changes]
  rfl

theorem State.readByte_written_inside {k : Nat} (hk : k < n.bytes) :
    (s.written races n addr v).readByte (addr + k) = leByte v.toNat k := by
  rw [State.written, State.readByte_putBytes, if_pos (by omega), Nat.add_sub_cancel_left]

theorem State.written_sameOutside : s.SameOutside (s.written races n addr v) ⟨addr, n.bytes⟩ := by
  intro a ha
  rw [Span.holds_eq_false_iff] at ha
  rw [State.written, State.readByte_putBytes, if_neg (by simp only at ha; omega), State.readByte_noted]

theorem State.mem_presentedBytes (c : Host.Cell) : c ∈ s.presentedBytes I ↔
    I.holds c.1 = true ∧ s.activeSet.holds c.1 = true ∧ c.2 = s.readByte c.1 := by
  obtain ⟨a, b⟩ := c
  simp only [State.presentedBytes, List.mem_map, List.mem_filter, Span.mem_addresses, Prod.mk.injEq]
  constructor
  · rintro ⟨_, ⟨hI, hact⟩, rfl, rfl⟩
    exact ⟨hI, hact, rfl⟩
  · rintro ⟨hI, hact, rfl⟩
    exact ⟨a, ⟨hI, hact⟩, rfl, rfl⟩

/-- What the display may still read grows by the overwritten bytes of the presented frames (U6). -/
theorem State.mem_written_stale (c : Host.Cell) : c ∈ (s.written races n addr v).stale ↔ c ∈ s.stale ∨
    (s.seq.run = true ∧ (⟨addr, n.bytes⟩ : Span).holds c.1 = true ∧
      s.activeSet.holds c.1 = true ∧ c.2 = s.readByte c.1) := by
  have hstale := s.noted_stale ⟨addr, n.bytes⟩ races
  rw [show (s.written races n addr v).stale = _ from hstale]
  cases hr : s.seq.run with
  | false => simp
  | true =>
    simp only [reduceIte, List.mem_append, State.mem_presentedBytes, true_and]
    exact or_comm

/-! ## The run -/

theorem State.noted_racesAt :
    ((s.overwritePresented I).await I races).racesAt races = s.racesAt races := by
  funext a
  simp [State.racesAt]

/-- A write that races disturbs the run; one that does not is noted, in case the run reaches it. -/
theorem State.noted_race_of_busy (hb : s.ceBusy = true) :
    (I.addresses.any (s.racesAt races) = true → (s.noted I races).race.tainted = true) ∧
    (I.addresses.any (s.racesAt races) = false →
      (s.noted I races).race.tainted = s.race.tainted ∧
      (s.noted I races).race.hostWrites = I :: s.race.hostWrites) := by
  have hbusy : ¬ ((s.overwritePresented I).await I races).ceBusy = false := by simp [hb]
  unfold State.noted State.disturb
  rw [if_neg hbusy, State.noted_racesAt]
  constructor
  · intro hany
    rw [if_pos hany]
  · intro hnone
    rw [if_neg (by simp [hnone])]
    exact ⟨by simp, by simp⟩

/-- Some byte of an access races with the busy run. -/
theorem State.any_racesAt_iff (hb : s.ceBusy = true) :
    (⟨addr, n.bytes⟩ : Span).addresses.any (s.racesAt races) = true ↔
      ∃ k < n.bytes, addr + k ∈ races ∨ ∃ J ∈ s.race.touched, J.holds (addr + k) = true := by
  simp only [List.any_eq_true, Span.mem_addresses, Span.holds_iff, State.racesAt_iff, hb, true_and]
  constructor
  · rintro ⟨a, ⟨hlo, hhi⟩, hrace⟩
    exact ⟨a - addr, by omega, by rwa [Nat.add_sub_cancel' hlo]⟩
  · rintro ⟨k, hk, hrace⟩
    exact ⟨addr + k, ⟨by omega, by omega⟩, hrace⟩

/-! ## An idle engine -/

variable (hi : s.ceBusy = false)
include hi

theorem State.racesAt_of_idle (a : Nat) : s.racesAt races a = false := by
  rw [State.racesAt, hi, Bool.false_and]

theorem State.await_of_idle : s.await I races = s := by
  have hchange : s.await I races =
      { s with race := { s.race with awaited := (s.await I races).race.awaited } } := rfl
  rw [hchange, s.await_idle I races hi]

theorem State.noted_race_of_idle : (s.noted I races).race = s.race := by
  have hidle : (s.overwritePresented I).ceBusy = false := by simpa using hi
  rw [State.noted, State.await_of_idle _ _ _ hidle, State.disturb, if_pos hidle,
    State.overwritePresented_race]

theorem State.hostValue_of_idle :
    s.hostValue n addr races = BitVec.ofNat 32 (leValue s.readByte addr n.bytes) := by
  have hbyte : s.hostByte races = s.readByte := by
    funext a
    rw [State.hostByte, State.racesAt_of_idle s races hi, if_neg Bool.false_ne_true]
  rw [State.hostValue, hbyte]

/-- With the engine idle the host reads back the low bytes of what it wrote. -/
theorem State.hostValue_written : (s.written races n addr v).hostValue n addr races =
    BitVec.ofNat 32 (v.toNat % 256 ^ n.bytes) := by
  have hidle : (s.written races n addr v).ceBusy = false := by
    rw [State.written_eq]
    exact hi
  have hbytes : leValue (s.written races n addr v).readByte addr n.bytes =
      leValue (fun a => leByte v.toNat (a - addr)) addr n.bytes :=
    leValue_congr _ fun k hk => by
      rw [State.readByte_written_inside s races n addr v hk, Nat.add_sub_cancel_left]
  rw [State.hostValue_of_idle _ races n addr hidle, hbytes, leValue_leByte]

end

/-- Settles O53: the two refusals, what a write leaves behind, and the value read back. -/
theorem hostMemoryPortReadsBackWrites : Obligations.HostMemoryPortReadsBackWrites := by
  intro s n addr v races
  refine ⟨fun hmis => ?misaligned, fun h hout => ?outside, fun h hin => ?accepted⟩
  case misaligned =>
    have href := State.memRefusal_of_misaligned (s := s) hmis
    exact ⟨hostMemRead_of_refused href races, hostMemWrite_of_refused href v races⟩
  case outside =>
    have href := State.memRefusal_of_outside h hout
    exact ⟨hostMemRead_of_refused href races, hostMemWrite_of_refused href v races⟩
  case accepted =>
    have hchange := s.written_eq races n addr v
    refine ⟨s.written races n addr v, hostMemWrite_of_accepted h hin v races, hchange,
      fun k hk => s.readByte_written_inside races n addr v hk, s.written_sameOutside races n addr v,
      s.mem_written_stale races n addr v, fun hi => ⟨s.noted_race_of_idle _ races hi, ?readBack⟩⟩
    have hidle : (s.written races n addr v).ceBusy = false := by rw [hchange]; exact hi
    have hparams : (s.written races n addr v).params = s.params := by rw [hchange]
    have hrecord : (s.written races n addr v).record = s.record := by rw [hchange]
    rw [hostMemRead_of_accepted h (by rw [hparams]; exact hin), State.await_of_idle _ _ _ hidle,
      State.hostValue_written s races n addr v hi, ← hrecord]
    rfl

/-! ## Reads during a run -/

theorem heldBy_eq_false_iff (spans : List Span) (a : Nat) :
    heldBy spans a = false ↔ ∀ I ∈ spans, I.holds a = false := by
  simp [heldBy]

theorem State.hostValue_toNat (s : State) (n : Width) (addr : Nat) (races : List Nat) :
    (s.hostValue n addr races).toNat = leValue (s.hostByte races) addr n.bytes :=
  Nat.mod_eq_of_lt ((leValue_lt _ _ _).trans_le n.pow_bytes_le)

/-- Settles O55: the answer byte by byte, and the awaited bytes by what the access says. -/
theorem hostReadsDuringARunAreFreeWhereTheyRace : Obligations.HostReadsDuringARunAreFreeWhereTheyRace := by
  intro s n addr races hb h hin
  refine ⟨_, s.hostValue n addr races, hostMemRead_of_accepted h hin races, rfl, ?range, fun k hk => ?bytes,
    fun a => ?awaited, fun u spans a => ?touch⟩
  case range =>
    rw [State.hostValue_toNat]
    exact leValue_lt _ _ _
  case bytes =>
    have hrace := s.racesAt_iff races (addr + k)
    simp only [hb, true_and] at hrace
    rw [State.hostValue_toNat, leByte_leValue _ _ _ _ hk, State.hostByte]
    refine ⟨fun hyes => if_pos (hrace.2 hyes), fun hlist hheld => if_neg fun hr => ?_⟩
    obtain hmem | ⟨I, hI, hholds⟩ := hrace.1 hr
    · exact hlist hmem
    · exact absurd hholds (by simp [hheld I hI])
  case awaited =>
    have hmem := s.mem_await_awaited ⟨addr, n.bytes⟩ races a
    rw [hb, heldBy_eq_false_iff, Span.holds_iff] at hmem
    refine hmem.trans ?_
    rw [or_comm]
    simp only [true_and, and_assoc]
  case touch =>
    rw [State.touch_race_awaited, List.mem_filter, Bool.not_eq_true', heldBy_eq_false_iff]

end Sys2Proof.Machine
end

section
/-! PROOFS. 20_memory.md R60, 93_implementation_defined.md U5: a host write that races with the run. What a
completed command leaves in the record of the run is said once, for every command, by its operands; the taint of
a run is then followed through the agents' steps. -/

namespace Sys2Proof.Machine

/-! ## What a command leaves in the record of the run -/

theorem State.touch_nil (s : State) : s.touch [] = s := by
  simp [State.touch, heldBy]

section
variable {i : Instr} {s t : State}

/-- A command that goes on has touched its sources and its destinations. -/
theorem exec_completes_race (h : exec i s = .next t) (ht : t.ceBusy = true) :
    t.race = (s.touch ((sourcesOf i ++ destinationsOf i s).map Surface.span)).race := by
  obtain ⟨rfl, rfl⟩ | ⟨f, src, w, hh, g, rfl, rfl⟩ | ⟨D, p, hdest, rfl⟩ |
    ⟨B, M, p, q, hdest, -, rfl⟩ := exec_completes h ht
  · rw [show (sourcesOf .nop ++ destinationsOf .nop s).map Surface.span = [] from rfl, State.touch_nil]
    rfl
  · rw [State.advance_race, State.loadLut_race]
    rfl
  · rw [State.advance_race, State.storeSurface_race, hdest]
  · rw [State.advance_race, State.storeSurface_race, State.storeSurface_race, hdest]

/-- A command that ends the run adds nothing to the record. -/
theorem exec_ends_race (h : exec i s = .next t) (hb : s.ceBusy = true) (ht : t.ceBusy = false) :
    t.race = s.race := by
  obtain ⟨-, rfl⟩ | ⟨-, r, rfl⟩ := exec_ends h hb ht <;> rfl

theorem exec_not_disturbed (hund : ¬ s.Disturbed i) (hb : s.ceBusy = true) (h : exec i s = .next t) :
    t.race.tainted = false ∧ t.race.hostWrites = s.race.hostWrites := by
  cases ht : t.ceBusy with
  | true =>
    rw [exec_completes_race h ht]
    exact ⟨State.touch_tainted_of_not_disturbed hund rfl, rfl⟩
  | false =>
    rw [exec_ends_race h hb ht]
    exact ⟨by simpa using mt Or.inl hund, rfl⟩

theorem exec_disturbed_tainted (hdist : s.Disturbed i) (h : exec i s = .next t) (ht : t.ceBusy = true) :
    t.race.tainted = true := by
  rw [exec_completes_race h ht]
  exact (s.touch_operands_tainted_iff i).2 hdist

/-! ## What a disturbed command stores -/

section
variable {u : State} (hu : u.race.tainted = true) (D : Surface) (p : Nat → Nat → Nat)
include hu

theorem State.readByte_storeSurface_tainted {a : Nat} (ha : D.span.holds a = true) :
    (u.storeSurface D p).readByte a = Config.freeByte u.freeCount a :=
  u.readByte_store_tainted _ _ _ hu ((Span.holds_iff _ _).1 ha)

theorem State.storeSurface_freeCount_tainted : (u.storeSurface D p).freeCount = u.freeCount + 1 :=
  u.store_freeCount_tainted _ _ _ hu

end

/-- Destination number j of a disturbed command holds the free bytes of draw freeCount + j. -/
theorem exec_disturbed_bytes (hdist : s.Disturbed i) (h : exec i s = .next t) (ht : t.ceBusy = true)
    {j : Nat} {D : Surface} (hD : (destinationsOf i s)[j]? = some D) {a : Nat}
    (ha : D.span.holds a = true) : t.readByte a = Config.freeByte (s.freeCount + j) a := by
  have htaint := (s.touch_operands_tainted_iff i).2 hdist
  obtain ⟨rfl, -⟩ | ⟨f, src, w, hh, g, rfl, -⟩ | ⟨E, p, hdest, rfl⟩ |
    ⟨B, M, p, q, hdest, hap, rfl⟩ := exec_completes h ht
  · exact absurd hD (by simp [destinationsOf])
  · exact absurd hD (by simp [destinationsOf])
  · rw [hdest] at hD htaint
    match j with
    | 0 =>
      obtain rfl : E = D := by simpa using hD
      exact State.readByte_storeSurface_tainted htaint E p ha
    | k + 1 => exact absurd hD (by simp)
  · rw [hdest] at hD htaint
    match j with
    | 0 =>
      obtain rfl : B = D := by simpa using hD
      rw [State.readByte_advance, State.readByte_storeSurface_outside _ _ _ (hap.symm.holds_eq_false ha)]
      exact State.readByte_storeSurface_tainted htaint B p ha
    | 1 =>
      obtain rfl : M = D := by simpa using hD
      rw [State.readByte_advance,
        State.readByte_storeSurface_tainted (by rw [State.storeSurface_race]; exact htaint) M q ha,
        State.storeSurface_freeCount_tainted htaint]
      rfl
    | k + 2 => exact absurd hD (by simp)

theorem exec_disturbed_table {f : Fmt} {src w hh : Nat} (hdist : s.Disturbed (.lutld f src w hh))
    (h : exec (.lutld f src w hh) s = .next t) (ht : t.ceBusy = true) :
    t.lutRam = Config.freeTable s.freeCount := by
  have htaint := (s.touch_operands_tainted_iff (.lutld f src w hh)).2 hdist
  obtain ⟨hi, -⟩ | ⟨_, _, _, _, g, -, rfl⟩ | ⟨E, p, hdest, -⟩ | ⟨B, M, p, q, hdest, -, -⟩ :=
    exec_completes h ht
  · cases hi
  · exact State.loadLut_lutRam_tainted _ g htaint
  · cases hdest
  · cases hdest

/-! ## The taint through the steps -/

/-- A command keeps a taint, and adds one only after host writes during the run. -/
theorem exec_tainted (h : exec i s = .next t) :
    (s.race.tainted = true → t.race.tainted = true) ∧
      (s.race.hostWrites = [] → t.race.tainted = s.race.tainted) := by
  obtain ⟨r, rfl⟩ | ⟨-, rfl⟩ | ⟨-, rfl⟩ | ⟨src, spans, f, -, rfl⟩ | ⟨-, D, -, -, spans, p, rfl⟩ |
    ⟨-, B, M, -, -, -, -, spans, p, q, rfl⟩ := exec_cases h
  · exact ⟨id, fun _ => rfl⟩
  · exact ⟨id, fun _ => rfl⟩
  · exact ⟨id, fun _ => rfl⟩
  all_goals exact ⟨fun hs => by simp [hs], fun hn => by simp [hn]⟩

theorem runCommand_tainted (h : runCommand s = .next t) :
    (s.race.tainted = true → t.race.tainted = true) ∧
      (s.race.hostWrites = [] → t.race.tainted = s.race.tainted) := by
  have htouch : (s.race.tainted = true → (s.touch [s.cmdSpan]).race.tainted = true) ∧
      (s.race.hostWrites = [] → (s.touch [s.cmdSpan]).race.tainted = s.race.tainted) :=
    ⟨fun hs => by simp [hs], fun hn => by simp [hn]⟩
  obtain ⟨r, -, rfl⟩ | ⟨e, -, -, rfl⟩ | ⟨i, -, -, hexec⟩ := runCommand_next h
  · exact ⟨id, fun _ => rfl⟩
  · exact htouch
  · obtain ⟨hkeep, hnone⟩ := exec_tainted hexec
    exact ⟨fun hs => hkeep (htouch.1 hs), fun hn => (hnone hn).trans (htouch.2 hn)⟩

theorem ceStep_tainted (h : ceStep s = .next t) :
    (s.race.tainted = true → t.race.tainted = true) ∧
      (s.ceBusy = false ∨ s.race.hostWrites = [] → t.race.tainted = s.race.tainted) := by
  obtain ⟨-, rfl⟩ | ⟨hb, -, ⟨-, rfl⟩ | ⟨-, hrun⟩⟩ := ceStep_next h
  · exact ⟨id, fun _ => rfl⟩
  · exact ⟨id, fun _ => rfl⟩
  · obtain ⟨hkeep, hnone⟩ := runCommand_tainted hrun
    exact ⟨hkeep, fun hwhy => hnone (hwhy.resolve_left (by simp [hb]))⟩

/-- A write to CTRL leaves the record alone, or begins a new run with an empty one. -/
theorem State.writeCtrl_race (s : State) (v : Word) :
    (s.writeCtrl v).race = s.race ∨ s.ceBusy = false ∧ (s.writeCtrl v).race = Race.clear := by
  have hstart : ∀ u : State, u.startRun.race = u.race ∨ u.ceBusy = false ∧ u.startRun.race = Race.clear := by
    intro u
    obtain ⟨-, h⟩ | ⟨hi, h⟩ := u.startRun_cases <;> rw [h]
    · exact .inl rfl
    · exact .inr ⟨hi, rfl⟩
  have habort : s.requestAbort.race = s.race := by
    obtain ⟨-, h⟩ | ⟨-, h⟩ := s.requestAbort_cases <;> rw [h]
  obtain h | h | h | h := s.writeCtrl_cases v <;> rw [h]
  · exact .inl rfl
  · exact .inl habort
  · exact hstart s
  · have hboth := hstart s.requestAbort
    rwa [habort, State.requestAbort_ceBusy] at hboth

/-- The register port, the sequencer and the display leave the record of a run alone; a host write of an idle
engine does too. -/
theorem hostRegWrite_race {n : Width} {a : Nat} {v : Word} (h : hostRegWrite n a v s = .next t) :
    t.race = s.race ∨ s.ceBusy = false ∧ t.race = Race.clear := by
  obtain ⟨b, c, rfl⟩ | rfl | ⟨-, -, rfl⟩ | ⟨-, c, rfl⟩ | ⟨-, c, rfl⟩ := hostRegWrite_cases h
  · exact .inl rfl
  · exact s.writeCtrl_race v
  · obtain ⟨_, _, _, he⟩ := s.writeSeqCtrl_eq v
    exact .inl (by rw [he])
  · exact .inl rfl
  · exact .inl rfl

theorem hostMemWrite_race_of_idle {n : Width} {a : Nat} {v : Word} {races : List Nat}
    (h : hostMemWrite n a v races s = .next t) (hi : s.ceBusy = false) : t.race = s.race := by
  cases href : s.memRefusal n a with
  | some r =>
    rw [hostMemWrite_of_refused href] at h
    cases h
  | none =>
    obtain ⟨h0, hin⟩ := State.memRefusal_eq_none.1 href
    rw [hostMemWrite_of_accepted h0 hin] at h
    cases h
    exact s.noted_race_of_idle _ races hi

/-- A disturbed run stays disturbed as long as it goes on. -/
theorem agentStep_keeps_tainted {e : Event} (h : agentStep e s = .next t) (hb : s.ceBusy = true)
    (hs : s.race.tainted = true) (ht : t.ceBusy = true) : t.race.tainted = true := by
  cases e with
  | regRead n a =>
    obtain ⟨o, rfl⟩ := hostRegRead_next h
    exact hs
  | regWrite n a v =>
    obtain he | ⟨hi, -⟩ := hostRegWrite_race h
    · rw [he, hs]
    · rw [hb] at hi
      cases hi
  | memRead n a races =>
    obtain ⟨o, rfl⟩ := hostMemRead_next h
    exact hs
  | memWrite n a v races =>
    obtain ⟨-, r, l, rfl, -, -, hr⟩ := hostMemWrite_next h
    exact hr hs
  | ceStep => exact (ceStep_tainted h).1 hs
  | tick =>
    cases h
    obtain ⟨q, b, he⟩ := s.seqTick_eq
    rw [he]
    exact hs
  | displayRead y x => obtain ⟨o, rfl⟩ | ⟨o, rfl⟩ := displayRead_next h <;> exact hs
  | resetInput =>
    cases h
    cases ht

/-- A run becomes disturbed by a host write, or by an engine that reaches what the host wrote. -/
theorem agentStep_tainted {e : Event} (h : agentStep e s = .next t) (hs : s.race.tainted = false)
    (ht : t.race.tainted = true) :
    s.ceBusy = true ∧
      ((∃ n a v races, e = .memWrite n a v races) ∨ (e = .ceStep ∧ s.race.hostWrites ≠ [])) := by
  have hsame : t.race.tainted = s.race.tainted → False := fun hst => by
    rw [ht, hs] at hst
    cases hst
  cases e with
  | regRead n a =>
    obtain ⟨o, rfl⟩ := hostRegRead_next h
    exact (hsame rfl).elim
  | regWrite n a v =>
    obtain he | ⟨-, he⟩ := hostRegWrite_race h
    · exact (hsame (by rw [he])).elim
    · rw [he] at ht
      cases ht
  | memRead n a races =>
    obtain ⟨o, rfl⟩ := hostMemRead_next h
    exact (hsame rfl).elim
  | memWrite n a v races =>
    cases hb : s.ceBusy with
    | true => exact ⟨rfl, .inl ⟨n, a, v, races, rfl⟩⟩
    | false => exact (hsame (by rw [hostMemWrite_race_of_idle h hb])).elim
  | ceStep =>
    have hnone := (ceStep_tainted h).2
    cases hb : s.ceBusy with
    | true => exact ⟨rfl, .inr ⟨rfl, fun hn => hsame (hnone (.inr hn))⟩⟩
    | false => exact (hsame (hnone (.inl hb))).elim
  | tick =>
    cases h
    obtain ⟨q, b, he⟩ := s.seqTick_eq
    exact (hsame (by rw [he])).elim
  | displayRead y x => obtain ⟨o, rfl⟩ | ⟨o, rfl⟩ := displayRead_next h <;> exact (hsame rfl).elim
  | resetInput =>
    cases h
    cases ht

end

/-- Settles O54: the write itself, then the taint through touches, commands and steps. -/
theorem racingHostWritesTaintTheRun : Obligations.RacingHostWritesTaintTheRun := by
  refine ⟨fun s n addr v races hb h hin => ?write, fun s t hstep hb hs ht => ?stays,
    fun s spans => ⟨s.touch_tainted_iff spans, rfl⟩, fun i s t => exec_not_disturbed,
    fun s t hstep hs ht => ?why, fun i s t hdist _ hexec ht => ?command⟩
  case write =>
    have hany := s.any_racesAt_iff races n addr hb
    obtain ⟨hrace, hnorace⟩ := s.noted_race_of_busy ⟨addr, n.bytes⟩ races hb
    refine ⟨s.written races n addr v, hostMemWrite_of_accepted h hin v races, s.written_eq races n addr v,
      fun k hk => s.readByte_written_inside races n addr v hk, s.written_sameOutside races n addr v,
      fun hhit => hrace (hany.2 hhit), fun hmiss => hnorace (Bool.eq_false_iff.2 fun hhit => ?_)⟩
    obtain ⟨k, hk, hmem | ⟨I, hI, hholds⟩⟩ := hany.1 hhit
    · exact (hmiss k hk).1 hmem
    · exact absurd hholds (by simp [(hmiss k hk).2 I hI])
  case stays =>
    obtain ⟨-, hce⟩ | ⟨e, rest, -, hagent⟩ := step_next hstep
    · exact (ceStep_tainted hce).1 hs
    · exact agentStep_keeps_tainted hagent hb hs ht
  case why =>
    obtain ⟨hnil, hce⟩ | ⟨e, rest, hsched, hagent⟩ := step_next hstep
    · obtain ⟨hb, ⟨n, a, v, races, he⟩ | ⟨-, hne⟩⟩ := agentStep_tainted (e := .ceStep) hce hs ht
      · cases he
      · exact ⟨hb, .inr ⟨.inl hnil, hne⟩⟩
    · have hhead : s.schedule.head? = some e := by rw [hsched, List.head?_cons]
      rw [hhead]
      obtain ⟨hb, ⟨n, a, v, races, rfl⟩ | ⟨rfl, hne⟩⟩ := agentStep_tainted hagent hs ht
      · exact ⟨hb, .inl ⟨n, a, v, races, rfl⟩⟩
      · exact ⟨hb, .inr ⟨.inr rfl, hne⟩⟩
  case command =>
    refine ⟨exec_disturbed_tainted hdist hexec ht, fun j D hD a ha => exec_disturbed_bytes hdist hexec ht hD ha,
      fun f src w hh hi => ?_⟩
    subst hi
    exact exec_disturbed_table hdist hexec ht

end Sys2Proof.Machine
end
